-- ==== Sys2Proof/Word.lean ====
section
/-! DEFINITION. The widths of TRSA-CORE (rule R8): every operand, result and register is an unsigned
64-bit word, `modexp` and `lcm` multiply in 128 bits, and a bus wrapper sees bytes (rule R31). -/

namespace Sys2Proof

/-- `u64`: the width `XLEN` of every operand, result and data register (rule R8). -/
abbrev Word := BitVec 64

/-- `u128`: the width `WLEN` of unsigned intermediates (rule R8). -/
abbrev Wide := BitVec 128

/-- One byte of the little-endian view of the register words (rule R31). -/
abbrev Byte := BitVec 8

end Sys2Proof
end

