-- ==== Sys2Proof/Config.lean ====
section
/-! DEFINITION. What this hardware fixes (rule R8), and the values the spec leaves open: every
`ANY_u64` (rules R9, R26, R66) and the base address (rule R29). The open ones have no body. -/

namespace Sys2Proof

/-- `E`, the fixed public exponent 65537 (rule R8). -/
def Config.publicExponent : Word := 65537#64

/-- `PRIME_LO` = 2^30, the lower bound every draw presents (rules R8, R23). -/
def Config.primeLo : Word := 0x40000000#64

/-- `PRIME_HI` = 2^31, the exclusive upper bound every draw presents (rules R8, R23). -/
def Config.primeHi : Word := 0x80000000#64

/-- The free values `ANY_u64` (rule R9), numbered in the order the machine takes them. Nothing constrains
them: DESIGN CHOICE, log entry 2, safe. -/
opaque Config.anyU64 : Nat → Word

/-- The open parameter behind `BASE` (rule R29, D19): any natural number. Log entry 9. -/
opaque Config.baseWord : Nat

/-- `BASE`, the byte address of register word 0: a multiple of 8, left to the platform (rule R29). -/
def Config.base : Nat := 8 * Config.baseWord

end Sys2Proof
end

