-- ==== Sys2Proof/Syntax.lean ====
section
/-! DEFINITION. The nine commands (rule R39), the names of the register words (rule R12), the
transactions of the host port (rule R22) and the lines of a host script (rule R44). -/

namespace Sys2Proof

/-- The nine commands of rule R39, one constructor per row of the opcode table. A command word carries no
operand fields (rule R41), so no constructor has arguments. -/
inductive Instr where
  | modexp
  | primality
  | primegen
  | gcd
  | lcm
  | modinv
  | genkey
  | encrypt
  | decrypt
deriving DecidableEq, Repr

/-- The eight register words the host sees, by name (rule R12). -/
inductive Reg where
  | opa
  | opb
  | opc
  | cmd
  | status
  | res0
  | res1
  | res2
deriving DecidableEq, Repr

/-- One transaction of the host port: `RegRead(i)` or `RegWrite(i, v)` with a 3-bit word index (rule R22). -/
inductive Txn where
  | read (i : BitVec 3)
  | write (i : BitVec 3) (v : Word)
deriving DecidableEq, Repr

/-- The value a `wr` line writes: a number, or a script variable bound by an earlier `rd REG -> name` (rule
R44). Variables are numbered (log entry 11). -/
inductive Val where
  | lit (v : Word)
  | name (n : Nat)
deriving DecidableEq, Repr

/-- A line of a host script (rule R44), and the two accesses of a platform that maps the block on a
byte-addressed bus, `MemWrite` and `MemRead` (rules R9, R30). -/
inductive Line where
  /-- `wr REG, value` -/
  | wr (r : Reg) (v : Val)
  /-- `cmd MNEMONIC`, or `cmd` with a number: a write of that word to `CMD` -/
  | cmd (w : Word)
  /-- `rd REG` -/
  | rd (r : Reg)
  /-- `rd REG -> name` -/
  | rdTo (r : Reg) (n : Nat)
  /-- `wait`: repeat `rd STATUS` until `BUSY = 0` -/
  | wait
  /-- `reset`: assert `rst` for one clock edge -/
  | reset
  /-- `; text` -/
  | comment (text : String)
  /-- `MemWrite(addr, size, v)` on a platform bus, `addr` absolute (log entry 21) -/
  | busWrite (addr size : Nat) (v : Word)
  /-- `MemRead(addr, size)` on a platform bus, `addr` absolute (log entry 21) -/
  | busRead (addr size : Nat)
deriving DecidableEq, Repr

/-- The three agents that take steps (rule R6). -/
inductive Agent where
  | host
  | core
  | source
deriving DecidableEq, Repr

end Sys2Proof
end

