-- ==== Sys2Proof/WellFormed.lean ====
section
/-! DEFINITION. The checks on what the outside presents: a command word (rules R40, R43) and an access on a
platform bus (rule R30). A command itself has no fields, so every `Instr` is well formed. -/

namespace Sys2Proof

/-- Every command is well formed: the command word has no register fields, no immediates and no modifier bits
(rule R40). -/
def Instr.wf : Instr → Bool
  | .modexp => true
  | .primality => true
  | .primegen => true
  | .gcd => true
  | .lcm => true
  | .modinv => true
  | .genkey => true
  | .encrypt => true
  | .decrypt => true

/-- Bits 63:4 of a command word must be 0 (rule R40). -/
def upperBitsZero (w : Word) : Bool := w.extractLsb' 4 60 == 0#60

/-- Opcode 0x0 is illegal (rule R43). -/
def opcodeNonzero (w : Word) : Bool := w.extractLsb' 0 4 != 0#4

/-- Opcodes 0xA to 0xF are illegal (rule R43). -/
def opcodeAtMostNine (w : Word) : Bool := decide ((w.extractLsb' 0 4).toNat ≤ 9)

/-- A legal command word (rule R40). -/
def wordWf (w : Word) : Bool := upperBitsZero w && opcodeNonzero w && opcodeAtMostNine w

/-- The only legal size of an access is 8 (rules R9, R30). -/
def accessSizeOk (size : Nat) : Bool := size == 8

/-- An access must lie in the 64 bytes of the block (rule R30). -/
def accessInBlock (base addr : Nat) : Bool := decide (base ≤ addr) && decide (addr < base + 64)

/-- An access must be at `BASE + 8*i` (rule R30). -/
def accessAligned (base addr : Nat) : Bool := (addr - base) % 8 == 0

/-- A legal access on a platform bus (rule R30). -/
def accessWf (base addr size : Nat) : Bool :=
  accessSizeOk size && accessInBlock base addr && accessAligned base addr

end Sys2Proof
end

