-- ==== Sys2Proof/Decode.lean ====
section
/-! DEFINITION. The decoder and the encoder of command words (rules R39, R40, R43), the little-endian bytes of
a register word (rule R31), and the transaction tuples of a host script (rules R12, R45). -/

namespace Sys2Proof

/-- Why a command word is illegal (rule R43), or why bytes are no command word (rule R30). -/
inductive Illegal where
  /-- a bit of the field `zero`, bits 63:4, is set -/
  | zeroField
  /-- opcode 0x0 -/
  | opcodeZero
  /-- opcode 0xA to 0xF -/
  | opcodeReserved
  /-- not the eight bytes of one command word -/
  | notEightBytes
deriving DecidableEq, Repr

/-- What the decoder answers: a command, or the reason why there is none. -/
inductive Decoded where
  | ok (i : Instr)
  | bad (why : Illegal)
deriving DecidableEq, Repr

/-- The opcode field, bits 3:0, of each command (rule R39). -/
def opcodeOf : Instr → BitVec 4
  | .modexp => 0x1#4
  | .primality => 0x2#4
  | .primegen => 0x3#4
  | .gcd => 0x4#4
  | .lcm => 0x5#4
  | .modinv => 0x6#4
  | .genkey => 0x7#4
  | .encrypt => 0x8#4
  | .decrypt => 0x9#4

/-- The command an opcode field selects (rules R39, R43). -/
def decodeOpcode (op : BitVec 4) : Decoded :=
  match op.toNat with
  | 0 => .bad .opcodeZero
  | 1 => .ok .modexp
  | 2 => .ok .primality
  | 3 => .ok .primegen
  | 4 => .ok .gcd
  | 5 => .ok .lcm
  | 6 => .ok .modinv
  | 7 => .ok .genkey
  | 8 => .ok .encrypt
  | 9 => .ok .decrypt
  | _ => .bad .opcodeReserved

/-- The decoder of rule R40: bits 63:4 must be 0, bits 3:0 select the command. -/
def decode (w : Word) : Decoded :=
  if w.extractLsb' 4 60 = 0#60 then decodeOpcode (w.extractLsb' 0 4) else .bad .zeroField

/-- The command word of a command: its opcode in bits 3:0, bits 63:4 zero (rule R40). -/
def encode (i : Instr) : Word := 0#60 ++ opcodeOf i

/-- Byte `k` of a register word, bits `8*k+7 : 8*k` (rule R31). -/
def wordByte (w : Word) (k : Nat) : Byte := w.extractLsb' (8 * k) 8

/-- The eight bytes of a register word, the lowest address first (rule R31). -/
def wordBytes (w : Word) : List Byte := (List.range 8).map (wordByte w)

/-- The register word of little-endian bytes (rule R31). -/
def wordOfBytes : List Byte → Word
  | [] => 0#64
  | b :: rest => (wordOfBytes rest <<< 8) ||| b.setWidth 64

/-- The decoder on any bytes: one command word is eight bytes, little-endian (rules R30, R31, R40). -/
def decodeBytes (bytes : List Byte) : Decoded :=
  if bytes.length = 8 then decode (wordOfBytes bytes) else .bad .notEightBytes

/-- The command of an answer of the decoder, if it is one. -/
def Decoded.instr? : Decoded → Option Instr
  | .ok i => some i
  | .bad _ => none

/-- The command the decoder reads from a word of `nbits` bits numbered as the opcode table numbers them; bits
above `nbits` are 0. -/
def decodeTableWord (nbits w : Nat) : Option Instr :=
  (decode (BitVec.ofNat 64 (w % 2 ^ nbits))).instr?

/-- The word index of a register (rule R12). -/
def Reg.index : Reg → BitVec 3
  | .opa => 0#3
  | .opb => 1#3
  | .opc => 2#3
  | .cmd => 3#3
  | .status => 4#3
  | .res0 => 5#3
  | .res1 => 6#3
  | .res2 => 7#3

/-- The register at a word index; the block decodes exactly 3 index bits and all eight words are defined
(rule R29). -/
def Reg.ofIndex (i : BitVec 3) : Reg :=
  match i.toNat with
  | 0 => .opa
  | 1 => .opb
  | 2 => .opc
  | 3 => .cmd
  | 4 => .status
  | 5 => .res0
  | 6 => .res1
  | _ => .res2

/-- The byte offset of a register (rules R12, R29). -/
def Reg.offset (r : Reg) : Nat := 8 * r.index.toNat

/-- The tuple `W offset data` or `R offset` of a transaction (rule R45): is it a write, the byte offset, the
data of a write. -/
def Txn.tuple : Txn → Bool × Nat × Option Word
  | .write i v => (true, 8 * i.toNat, some v)
  | .read i => (false, 8 * i.toNat, none)

/-- The word index of a byte offset, `offset / 8` (rule R45), for the eight offsets of rule R12. Any other offset has
none: DESIGN CHOICE, log entry 20, safe. -/
def indexOfOffset (offset : Nat) : Option (BitVec 3) :=
  if offset % 8 = 0 ∧ offset < 64 then some (BitVec.ofNat 3 (offset / 8)) else none

/-- The transaction on the host port of a tuple `W offset data` or `R offset`: `h_index = offset / 8`
(rule R45). A tuple whose offset is none of rule R12's eight, to which the spec gives no meaning, is no transaction:
DESIGN CHOICE, log entry 20, safe. -/
def Txn.ofTuple : Bool × Nat × Option Word → Option Txn
  | (true, offset, some v) => (indexOfOffset offset).map fun i => .write i v
  | (false, offset, none) => (indexOfOffset offset).map .read
  | (true, _, none) => none
  | (false, _, some _) => none

end Sys2Proof
end

