-- ==== Sys2Proof/Machine/State.lean ====
section
/-! DEFINITION. The state of TRSA-CORE (rules R10 to R21), the agents outside the core and the traces of their
transactions (rules R6, R10, R14), the reasons a step can stop, and the state after reset (rule R26). -/

namespace Sys2Proof.Machine

/-- Reasons the machine stops for good. A fault of the HARDWARE (`raise Fatal`, rule R93) is none of them: it is
a next state, HALTED (rule R85). -/
inductive Fault where
  /-- Raised by the host's turn when a `wr` line uses a script variable that no earlier `rd REG -> name` bound:
  the spec gives such a script no meaning (rule R44, log entry 11). Safe: the host's script is stuck. -/
  | unboundScriptName
deriving DecidableEq, Repr

/-- Reasons the model has no step. -/
inductive Refusal where
  /-- Raised by an arm of `exec` for an instruction that has no meaning yet; no arm does. Safe. -/
  | notModelled (mnemonic : String)
  /-- Raised by a platform bus access whose size is not 8 (rule R30). Safe: nothing of it reaches the core. -/
  | busAccessSize
  /-- Raised by a platform bus access outside the 64 bytes of the block (rule R30). Safe. -/
  | busOutsideBlock
  /-- Raised by a platform bus access at an address that is not `BASE + 8*i` (rule R30). Safe. -/
  | busMisaligned
  /-- Raised by a turn of the random source with no request outstanding: assumed never to happen, no step in the
  model (rule R116, U14). Safe. -/
  | answerWithoutRequest
deriving DecidableEq, Repr

/-- The codes of `raise Fatal(code)` (rule R94). -/
inductive FaultCode where
  | zeroModulus
  | divZero
  | illegalCmd
deriving DecidableEq, Repr

/-- How far a running command has come: part of its hidden working state (rule R21). -/
inductive Stage where
  /-- nothing of the function is evaluated yet -/
  | start
  /-- the first `primegen` is looking for a prime (rules R55, R69) -/
  | findP
  /-- `p` is found and the `primegen` for `q` is looking for a prime (rule R69) -/
  | findQ (p : Word)
  /-- `ENCRYPT` has emitted `Info(p, q, n)` and has the exponentiation left (rules R73, R75) -/
  | exponentiate (p q : Word)
deriving DecidableEq, Repr

/-- The draw of a running command on the random-source port (rules R21, R23). -/
inductive Draw where
  /-- `rng_req = 0` and no answer held -/
  | idle
  /-- `rng_req = 1`, with `rng_lo` and `rng_hi` held -/
  | requested (lo hi : Word)
  /-- the source has answered; the core has the value and has lowered `rng_req` -/
  | answered (v : Word)
deriving DecidableEq, Repr

/-- The latched command (rule R20) and the working state of the running operation (rule R21). -/
structure Run where
  /-- the latched opcode `w[3:0]`, decoded (rules R20, R82) -/
  op : Instr
  /-- the latched `OPA` -/
  a : Word
  /-- the latched `OPB` -/
  b : Word
  /-- the latched `OPC` -/
  c : Word
  /-- the accumulator `ovf` of the command (rules R21, R82) -/
  accOvf : Bool
  /-- the accumulator `noinv` of the command (rules R21, R82) -/
  accNoinv : Bool
  stage : Stage
  draw : Draw
deriving DecidableEq, Repr

/-- One transaction with the random source (rules R10, R23). -/
structure DrawRecord where
  lo : Word
  hi : Word
  value : Word
deriving DecidableEq, Repr

/-- One event on the informational port (rules R24, R75). -/
structure InfoEvent where
  p : Word
  q : Word
  n : Word
deriving DecidableEq, Repr

/-- One read the host made and the value it returned (rules R22, R44). -/
structure ReadRecord where
  index : BitVec 3
  value : Word
deriving DecidableEq, Repr

/-- The state: the core's registers and status fields (rule R10), the running command while there is one, and
the agents outside with the traces of their transactions. -/
structure State where
  /-- `OPA` (rule R11) -/
  opa : Word
  /-- `OPB` (rule R11) -/
  opb : Word
  /-- `OPC` (rule R11) -/
  opc : Word
  /-- `RES0` (rule R11) -/
  res0 : Word
  /-- `RES1` (rule R11) -/
  res1 : Word
  /-- `RES2` (rule R11) -/
  res2 : Word
  /-- `STATUS.BUSY` (rule R15) -/
  busy : Bool
  /-- `STATUS.DONE` (rule R15) -/
  doneFlag : Bool
  /-- `STATUS.FATAL` (rule R15) -/
  fatal : Bool
  /-- `STATUS.OVF` (rules R15, R17) -/
  ovf : Bool
  /-- `STATUS.NOINV` (rules R15, R18) -/
  noinv : Bool
  /-- `STATUS.FAULT` (rules R15, R19) -/
  fault : BitVec 8
  /-- the latched command and its working state, while a command runs (rules R10, R20, R21) -/
  running : Option Run
  /-- the lines of the host script not yet performed (rules R14, R44) -/
  script : List Line
  /-- the script variables, the latest binding first (rule R44) -/
  vars : List (Nat × Word)
  /-- what the random source will answer, in order; it may run out (rules R23, R57, R90) -/
  answers : List Word
  /-- which agent moves next; when it is empty, `State.nextAgent` says (rules R35, R117, log entry 4) -/
  schedule : List Agent
  /-- the draw transactions made so far (rule R10) -/
  draws : List DrawRecord
  /-- the `Info` events emitted so far (rule R10) -/
  infos : List InfoEvent
  /-- the reads the host made so far -/
  reads : List ReadRecord
  /-- how many `ANY_u64` values have been taken; the next one is `Config.anyU64 anys` (log entry 2) -/
  anys : Nat
deriving DecidableEq, Repr

/-- The machine right after reset (rules R26, R108): IDLE, nothing latched, nothing outstanding, the six data
registers unspecified (free values, log entry 3), and nothing placed outside the core. -/
def State.reset : State where
  opa := Config.anyU64 0
  opb := Config.anyU64 1
  opc := Config.anyU64 2
  res0 := Config.anyU64 3
  res1 := Config.anyU64 4
  res2 := Config.anyU64 5
  busy := false
  doneFlag := false
  fatal := false
  ovf := false
  noinv := false
  fault := 0x00#8
  running := none
  script := []
  vars := []
  answers := []
  schedule := []
  draws := []
  infos := []
  reads := []
  anys := 6

end Sys2Proof.Machine
end

