-- ==== Sys2Proof/Machine/Arith.lean ====
section
/-! DEFINITION. The functions the commands compute (files 40 to 43 of the spec): `modexp`, `is_prime`, `gcd`,
`lcm`, `modinv`, each from its pseudocode, with loops bounded by a fuel that is never exhausted (log entry 13). -/

namespace Sys2Proof.Machine

/-- `zext_128(v)` (rule R9). -/
def zext128 (v : Word) : Wide := v.setWidth 128

/-- `trunc_64(v)`, which is `v[63:0]` (rule R9). -/
def trunc64 (v : Wide) : Word := v.setWidth 64

/-- `(x * y) mod m` with the product exact in `u128` (rules R47, R49). -/
def mulMod (x y m : Word) : Word := trunc64 ((zext128 x * zext128 y) % zext128 m)

/-- The recursion of `modexp` after the checks of `m` and `x`, on which only `y = 0` ends (rule R47): at most 64
levels for a 64-bit exponent. -/
def modexpRec (x m : Word) : Nat → Word → Word
  | 0, _ => 1#64
  | fuel + 1, y =>
    if y = 0#64 then 1#64
    else
      let z := modexpRec x m fuel (y / 2#64)
      let s := mulMod z z m
      if y.getLsbD 0 then mulMod s x m else s

/-- `modexp(x, y, m)` (rule R47): `m = 0` is tested first and raises `Fatal(ZERO_MODULUS)` (`none` here), then
`x = 0`, then `y = 0`, whose 1 is not reduced. -/
def modexp (x y m : Word) : Option Word :=
  if m = 0#64 then none
  else if x = 0#64 then some 0#64
  else some (modexpRec x m 64 y)

/-- The loop of rule R50 over the bits `i - 1` down to 0 of the exponent, with the accumulator `acc`. -/
def modexpLoop (x y m : Word) : Nat → Word → Word
  | 0, acc => acc
  | i + 1, acc =>
    if y >>> i = 0#64 then modexpLoop x y m i acc
    else
      let s := mulMod acc acc m
      modexpLoop x y m i (if y.getLsbD i then mulMod s x m else s)

/-- The trial-division loop of rule R52 from the divisor `i`, on unbounded integers, so that `i * i` is compared
without wrap-around (rule R53). -/
def trialLoop (n : Nat) : Nat → Nat → Bool
  | 0, _ => true
  | fuel + 1, i =>
    if i * i ≤ n then
      if n % i = 0 then false
      else if n % (i + 2) = 0 then false
      else trialLoop n fuel (i + 6)
    else true

/-- `is_prime(n)` (rule R52). -/
def isPrime (n : Word) : Bool :=
  if n.toNat ≤ 1 then false
  else if n.toNat = 2 ∨ n.toNat = 3 then true
  else if n.toNat % 2 = 0 then false
  else if n.toNat % 3 = 0 then false
  else trialLoop n.toNat n.toNat 5

/-- The remainder loop of `gcd` (rule R58). -/
def gcdLoop : Nat → Word → Word → Word
  | 0, x, _ => x
  | fuel + 1, x, y => if y = 0#64 then x else gcdLoop fuel y (x % y)

/-- `gcd(x, y)` (rule R58): the operands are swapped when `x < y`, then the remainder loop runs. -/
def gcdWord (x y : Word) : Word :=
  if x < y then gcdLoop (x.toNat + 1) y x else gcdLoop (y.toNat + 1) x y

/-- What `lcm` answers (rule R60). -/
inductive LcmResult where
  /-- the value, and the side result `ovf` -/
  | value (v : Word) (ovf : Bool)
  /-- `raise Fatal(DIV_ZERO)` -/
  | divZero
deriving DecidableEq, Repr

/-- The exact product of `lcm`'s operands (rule R60). -/
def lcmProduct (x y : Word) : Wide := zext128 x * zext128 y

/-- `modinv`'s extended Euclidean loop (rule R65), ending with the coefficient `t0`; the remainders are
non-negative, the coefficients signed. -/
def euclidLoop : Nat → Int → Int → Nat → Nat → Int
  | 0, t0, _, _, _ => t0
  | fuel + 1, t0, t1, r0, r1 =>
    if r1 = 0 then t0
    else euclidLoop fuel t1 (t0 - (r0 / r1 : Nat) * t1) r1 (r0 - r0 / r1 * r1)

/-- The inverse of `a` modulo `m` when one exists (rule R65): the coefficient, with `m` added once if it is
negative. -/
def euclidInverse (a m : Word) : Word :=
  let t := euclidLoop (a.toNat + 1) 0 1 m.toNat a.toNat
  BitVec.ofInt 64 (if t < 0 then t + m.toNat else t)

end Sys2Proof.Machine
end

