-- ==== Sys2Proof/Machine/Flags.lean ====
section
/-! DEFINITION. The flag computations: `OVF` (rules R17, R60), `NOINV` (rules R18, R64), the `STATUS` word
assembled from its fields (rule R15), and the fault codes (rule R94). -/

namespace Sys2Proof.Machine

/-- `ovf` of `lcm(x, y)`: the exact product does not fit 64 bits (rules R17, R60). -/
def lcmOverflows (x y : Word) : Bool := decide (2 ^ 64 ≤ (lcmProduct x y).toNat)

/-- `noinv` of `modinv(a, m)`: `m = 0`, or `m >= 2` and `gcd(a, m) != 1` (rules R18, R64). -/
def hasNoInverse (a m : Word) : Bool :=
  if m = 1#64 then false else decide (m = 0#64) || decide (gcdWord a m ≠ 1#64)

/-- `lcm(x, y)` (rule R60): the product wrapped to 64 bits, floor-divided by the gcd. -/
def lcmWord (x y : Word) : LcmResult :=
  if gcdWord x y = 0#64 then .divZero
  else .value (trunc64 (lcmProduct x y) / gcdWord x y) (lcmOverflows x y)

/-- `modinv(a, m)` (rule R64): `none` where no inverse exists, so that the caller takes `ANY_u64` and sets
`noinv` (rule R66). -/
def modinv (a m : Word) : Option Word :=
  if m = 1#64 then some 0#64
  else if hasNoInverse a m then none
  else some (euclidInverse a m)

/-- The 8-bit code of a fault (rule R94). -/
def FaultCode.code : FaultCode → BitVec 8
  | .zeroModulus => 0x01#8
  | .divZero => 0x02#8
  | .illegalCmd => 0x03#8

/-- The `STATUS` word of its fields (rules R15, R32); the reserved bits read 0. -/
def statusWordOf (fault : BitVec 8) (noinv ovf fatal doneFlag busy : Bool) : Word :=
  0#48 ++ fault ++ 0#3 ++ BitVec.ofBool noinv ++ BitVec.ofBool ovf ++ BitVec.ofBool fatal
    ++ BitVec.ofBool doneFlag ++ BitVec.ofBool busy

/-- `STATUS` as a read returns it (rule R32). -/
def State.statusWord (s : State) : Word :=
  statusWordOf s.fault s.noinv s.ovf s.fatal s.doneFlag s.busy

end Sys2Proof.Machine
end

