-- ==== Sys2Proof/Machine/Operands.lean ====
section
/-! DEFINITION. Operands and results of the commands: the latch of the three operand registers (rules R20, R41)
and the forms in which a command writes the `RES` registers (rule R42). -/

namespace Sys2Proof.Machine

/-- The operand registers a command reads; it ignores the others (rule R41). -/
def readsOf : Instr → List Reg
  | .modexp => [.opa, .opb, .opc]
  | .primality => [.opa]
  | .primegen => []
  | .gcd => [.opa, .opb]
  | .lcm => [.opa, .opb]
  | .modinv => [.opa, .opb]
  | .genkey => []
  | .encrypt => [.opa]
  | .decrypt => [.opa, .opb, .opc]

/-- The result registers a command writes at complete; it leaves the others unchanged (rule R42). -/
def writesOf : Instr → List Reg
  | .modexp => [.res0]
  | .primality => [.res0]
  | .primegen => [.res0]
  | .gcd => [.res0]
  | .lcm => [.res0]
  | .modinv => [.res0]
  | .genkey => [.res0, .res1]
  | .encrypt => [.res0, .res1, .res2]
  | .decrypt => [.res0]

/-- A command just latched with its operands: both accumulators false, nothing evaluated (rules R20, R82). -/
def Run.fresh (op : Instr) (a b c : Word) : Run where
  op := op
  a := a
  b := b
  c := c
  accOvf := false
  accNoinv := false
  stage := .start
  draw := .idle

/-- The latch taken at accept: the opcode and the three operand registers (rules R20, R82). -/
def State.latch (s : State) (op : Instr) : Run := Run.fresh op s.opa s.opb s.opc

/-- What a command writes into the `RES` registers; `none` leaves one unchanged (rule R42). -/
structure Results where
  res0 : Word
  res1 : Option Word
  res2 : Option Word
deriving DecidableEq, Repr

/-- A command that writes `RES0` only (rule R42). -/
def Results.one (v : Word) : Results := ⟨v, none, none⟩

/-- A command that writes `RES0` and `RES1` (rule R42). -/
def Results.two (v w : Word) : Results := ⟨v, some w, none⟩

/-- A command that writes all three (rule R42). -/
def Results.three (v w x : Word) : Results := ⟨v, some w, some x⟩

/-- A Boolean result is the `u64` 1 for true and 0 for false (rule R42). -/
def boolWord (b : Bool) : Word := if b then 1#64 else 0#64

end Sys2Proof.Machine
end

