-- ==== Sys2Proof/Machine/Ops.lean ====
section
/-! DEFINITION. The named operations on the state: the steps of the core (accept, complete, fault: rules R82,
R84, R85), reset (rule R108), draws and events (rules R23, R24), and the host's register reads and writes (rules
R32, R33). Taking the hardware's one exception is `raiseFatal`; the one way back from it is `resetEdge`. -/

namespace Sys2Proof.Machine

/-- The fault step `raise Fatal(code)` (rules R85, R93): HALTED, flags cleared, data registers unchanged. -/
def raiseFatal (code : FaultCode) (s : State) : State :=
  { s with
    fatal := true
    fault := code.code
    busy := false
    doneFlag := false
    ovf := false
    noinv := false
    running := none }

/-- Reset (rules R26, R108, R109), the only return from HALTED (rule R100): a running command is abandoned, an
outstanding draw withdrawn, `STATUS` all zero, the six data registers unspecified again. The agents outside the
core and the traces of past transactions go on. -/
def resetEdge (s : State) : State :=
  { s with
    opa := Config.anyU64 s.anys
    opb := Config.anyU64 (s.anys + 1)
    opc := Config.anyU64 (s.anys + 2)
    res0 := Config.anyU64 (s.anys + 3)
    res1 := Config.anyU64 (s.anys + 4)
    res2 := Config.anyU64 (s.anys + 5)
    busy := false
    doneFlag := false
    fatal := false
    ovf := false
    noinv := false
    fault := 0x00#8
    running := none
    anys := s.anys + 6 }

/-- Accept (rule R82): latch the opcode and the operands, set `BUSY`, clear `DONE` and the flags. -/
def accept (op : Instr) (s : State) : State :=
  { s with
    busy := true
    doneFlag := false
    ovf := false
    noinv := false
    running := some (s.latch op) }

/-- Complete (rule R84): write the listed results, the flags from the accumulators, `DONE`, and drop the latches
and the working state, in one atomic step. -/
def complete (s : State) (r : Run) (out : Results) : State :=
  { s with
    res0 := out.res0
    res1 := out.res1.getD s.res1
    res2 := out.res2.getD s.res2
    ovf := r.accOvf
    noinv := r.accNoinv
    doneFlag := true
    busy := false
    running := none }

/-- The command goes on with the working state `r` (rule R21). -/
def goOn (s : State) (r : Run) : State := { s with running := some r }

/-- The next `ANY_u64` (rule R9): the value, and the state in which it is taken. -/
def takeAny (s : State) : Word × State := (Config.anyU64 s.anys, { s with anys := s.anys + 1 })

/-- `Emit Info(p, q, n)` (rules R24, R75). -/
def emitInfo (p q n : Word) (s : State) : State := { s with infos := s.infos ++ [⟨p, q, n⟩] }

/-- Raise a draw request `Draw(2^30, 2^31)` (rule R23). -/
def requestDraw (r : Run) : Run := { r with draw := .requested Config.primeLo Config.primeHi }

/-- One move of the core on the running command. With no command latched the core does nothing (rule R105, log
entry 12). -/
def onRun (s : State) (move : Run → State) : Host.Outcome State Fault Refusal :=
  match s.running with
  | some r => .next (move r)
  | none => .next s

/-- A write of the command word `w` to `CMD`: ignored while RUNNING or HALTED (rule R86), otherwise accept
(rule R82) or `Fatal(ILLEGAL_CMD)` (rules R43, R97). -/
def presentCommand (w : Word) (s : State) : State :=
  if s.busy || s.fatal then s
  else
    match decode w with
    | .ok op => accept op s
    | .bad _ => raiseFatal .illegalCmd s

/-- What a read of a register word returns (rules R13, R32). -/
def State.readReg (s : State) : Reg → Word
  | .opa => s.opa
  | .opb => s.opb
  | .opc => s.opc
  | .cmd => 0#64
  | .status => s.statusWord
  | .res0 => s.res0
  | .res1 => s.res1
  | .res2 => s.res2

/-- `RegRead(i)` (rule R32): no side effect. -/
def State.regRead (s : State) (i : BitVec 3) : Word := s.readReg (Reg.ofIndex i)

/-- The effect of a write to a register word (rule R33). -/
def writeReg (r : Reg) (v : Word) (s : State) : State :=
  match r with
  | .opa => { s with opa := v }
  | .opb => { s with opb := v }
  | .opc => { s with opc := v }
  | .cmd => presentCommand v s
  | .status => s
  | .res0 => s
  | .res1 => s
  | .res2 => s

/-- `RegWrite(i, v)` (rule R33). -/
def regWrite (i : BitVec 3) (v : Word) (s : State) : State := writeReg (Reg.ofIndex i) v s

/-- The host gets a read's value on `h_rdata` (rule R22). -/
def logRead (i : BitVec 3) (v : Word) (s : State) : State := { s with reads := s.reads ++ [⟨i, v⟩] }

/-- One transaction on the host port (rule R22). -/
def performTxn (t : Txn) (s : State) : State :=
  match t with
  | .read i => logRead i (s.regRead i) s
  | .write i v => regWrite i v s

/-- One edge of the clock as the host drives it: with `rst = 1` the core is reset and a transaction presented on
the same edge is not performed (rule R106). -/
def hostEdge (rst : Bool) (t : Option Txn) (s : State) : State :=
  if rst then resetEdge s
  else
    match t with
    | some t => performTxn t s
    | none => s

/-- The byte at offset `k` of the block, little-endian (rule R31). -/
def State.byteAt (s : State) (k : Nat) : Byte :=
  wordByte (s.regRead (BitVec.ofNat 3 (k / 8))) (k % 8)

/-- The levels `busy`, `done`, `fatal` and `fault_code` (rules R25, R102). -/
structure Outputs where
  busy : Bool
  doneLevel : Bool
  fatal : Bool
  faultCode : BitVec 8
deriving DecidableEq, Repr

/-- The status outputs follow the fields of `STATUS` (rule R25). -/
def State.outputs (s : State) : Outputs := ⟨s.busy, s.doneFlag, s.fatal, s.fault⟩

/-- The draw request a run holds on the random-source port, if one is outstanding (rule R23). -/
def Draw.request? : Draw → Option (Word × Word)
  | .idle => none
  | .requested lo hi => some (lo, hi)
  | .answered _ => none

/-- `rng_req` with `rng_lo` and `rng_hi` while a draw is outstanding (rule R23). -/
def State.rngPort (s : State) : Option (Word × Word) :=
  match s.running with
  | some r => r.draw.request?
  | none => none

end Sys2Proof.Machine
end

