-- ==== Sys2Proof/Machine/Agents.lean ====
section
/-! DEFINITION. The agents outside the core: the host with its script (rules R6, R44), the platform bus in front of
the register words (rule R30), the random source (rules R7, R23); and whose turn is next (rules R35, R117). -/

namespace Sys2Proof.Machine

/-- The value of a `wr` line (rule R44). -/
def State.valueOf (s : State) : Val → Option Word
  | .lit v => some v
  | .name n => s.vars.lookup n

/-- The script variable `n` is bound to `v` (rule R44). -/
def bindVar (n : Nat) (v : Word) (s : State) : State := { s with vars := (n, v) :: s.vars }

/-- The host is done with the first line of its script. -/
def dropLine (s : State) : State := { s with script := s.script.tail }

/-- The host puts a line in front of its script. -/
def pushLine (l : Line) (s : State) : State := { s with script := l :: s.script }

/-- What a platform bus does with an access (rule R30): the word index, or a refusal by name with no part of the
access performed. `addr` is an absolute byte address, so that word `i` stands at `base + 8*i` (rules R28, R30), and not
the offset from `BASE` of rule R9's wording: DESIGN CHOICE, log entry 21, unsafe. -/
def busIndex (base addr size : Nat) : Except Refusal (BitVec 3) :=
  if ¬accessSizeOk size then .error .busAccessSize
  else if ¬accessInBlock base addr then .error .busOutsideBlock
  else if ¬accessAligned base addr then .error .busMisaligned
  else .ok (BitVec.ofNat 3 ((addr - base) / 8))

/-- The word index of the register a line's transaction goes to, and the transaction itself, for the lines that
are one transaction whose value needs no script variable (rules R44, R45). -/
def Line.txn? : Line → Option Txn
  | .wr r (.lit v) => some (.write r.index v)
  | .wr _ (.name _) => none
  | .cmd w => some (.write Reg.cmd.index w)
  | .rd r => some (.read r.index)
  | .rdTo r _ => some (.read r.index)
  | .wait => some (.read Reg.status.index)
  | .reset => none
  | .comment _ => none
  | .busWrite _ _ _ => none
  | .busRead _ _ => none

/-- One line of the host script (rule R44); `s` is the state with the line taken off the script. A `wait` that
reads `BUSY = 1` stays first in the script. -/
def runLine (l : Line) (s : State) : Host.Outcome State Fault Refusal :=
  match l with
  | .wr r v =>
    match s.valueOf v with
    | some w => .next (hostEdge false (some (.write r.index w)) s)
    | none => .fault .unboundScriptName
  | .cmd w => .next (hostEdge false (some (.write Reg.cmd.index w)) s)
  | .rd r => .next (hostEdge false (some (.read r.index)) s)
  | .rdTo r n => .next (bindVar n (s.readReg r) (hostEdge false (some (.read r.index)) s))
  | .wait =>
    let t := hostEdge false (some (.read Reg.status.index)) s
    if s.statusWord.getLsbD 0 then .next (pushLine .wait t) else .next t
  | .reset => .next (hostEdge true none s)
  | .comment _ => .next s
  | .busWrite addr size v =>
    match busIndex Config.base addr size with
    | .ok i => .next (hostEdge false (some (.write i v)) s)
    | .error e => .refused e
  | .busRead addr size =>
    match busIndex Config.base addr size with
    | .ok i => .next (hostEdge false (some (.read i)) s)
    | .error e => .refused e

/-- The host's turn: the next line of its script; with no line left it does nothing. -/
def hostTurn (s : State) : Host.Outcome State Fault Refusal :=
  match s.script with
  | [] => .next s
  | l :: _ => runLine l (dropLine s)

/-- The source answers the outstanding draw with `v` (rule R23): the core takes the value and lowers `rng_req`. -/
def deliver (r : Run) (lo hi v : Word) (rest : List Word) (s : State) : State :=
  { s with
    answers := rest
    draws := s.draws ++ [⟨lo, hi, v⟩]
    running := some { r with draw := .answered v } }

/-- The random source's turn (rules R7, R23): it answers an outstanding draw, with any value; with nothing to
answer yet it takes its time (rule R57). An answer with no request outstanding has no step (rule R116, U14). -/
def sourceTurn (s : State) : Host.Outcome State Fault Refusal :=
  match s.running with
  | some r =>
    match r.draw with
    | .requested lo hi =>
      match s.answers with
      | v :: rest => .next (deliver r lo hi v rest s)
      | [] => .next s
    | .idle => .refused .answerWithoutRequest
    | .answered _ => .refused .answerWithoutRequest
  | none => .refused .answerWithoutRequest

/-- The core has a move to make: a command runs and waits for no draw. -/
def State.coreReady (s : State) : Bool :=
  match s.running with
  | some r => r.draw.request?.isNone
  | none => false

/-- The random source has a draw to answer and an answer for it. -/
def State.sourceReady (s : State) : Bool := s.rngPort.isSome && !s.answers.isEmpty

/-- Whose turn is next: as the schedule says (any interleaving: rules R35, R117); where it is empty, a running
command goes on, else a draw is answered, else the host goes on (DESIGN CHOICE, log entry 4, unsafe). -/
def State.nextAgent (s : State) : Agent :=
  match s.schedule with
  | agent :: _ => agent
  | [] => if s.coreReady then .core else if s.sourceReady then .source else .host

/-- The turn is taken off the schedule. -/
def popTurn (s : State) : State := { s with schedule := s.schedule.tail }

/-- The schedule under which the core moves next, and after it as `l` says. -/
def coreFirst (l : List Agent) : List Agent :=
  match l with
  | [] => []
  | agent :: rest => .core :: agent :: rest

/-- The state in which the command of a word is latched as accept latches it, the core idle before, and the core
moves next; an illegal word is left as the host's next line, on an idle core (log entry 8). -/
def placeCommand (i : Option Instr) (w : Word) (s : State) : State :=
  match i with
  | some op =>
    { accept op s with fatal := false, fault := 0x00#8, schedule := coreFirst s.schedule }
  | none =>
    { s with
      busy := false
      fatal := false
      fault := 0x00#8
      running := none
      script := .cmd w :: s.script
      schedule := .host :: s.schedule }

end Sys2Proof.Machine
end

