-- ==== Sys2Proof/Machine/Genkey.lean ====
section
/-! DEFINITION. The key search `genkey()` (rule R69), shared by GENKEY and ENCRYPT, and the meaning of GENKEY
(rule R71). -/

namespace Sys2Proof.Machine

/-- What one move of `genkey()` comes to. -/
inductive KeyMove where
  /-- the search goes on with this working state -/
  | goOn (r : Run)
  /-- a draw is outstanding: the core waits -/
  | wait
  /-- `genkey()` returns `(p, q)`; the working state holds the `ovf` accumulated so far -/
  | found (p q : Word) (r : Run)
  /-- `lcm` raises `Fatal(DIV_ZERO)`; no primes lead here (rule R70) -/
  | divZero
deriving DecidableEq, Repr

/-- The condition of the re-draw loop, a conjunction (rule R69): `E >= L and gcd(E, L) != 1`. -/
def redrawCondition (l : Word) : Bool :=
  decide (l ≤ Config.publicExponent) && decide (gcdWord Config.publicExponent l ≠ 1#64)

/-- The test of the re-draw loop on the candidates `p` and `q` (rule R69); only `q` is drawn again. -/
def keyGuard (p q : Word) (r : Run) : KeyMove :=
  match lcmWord (p - 1#64) (q - 1#64) with
  | .divZero => .divZero
  | .value l o =>
    let r' := { r with accOvf := r.accOvf || o }
    if redrawCondition l then .goOn (requestDraw r') else .found p q r'

/-- An answer `v` of the random source in the key search: a value that is not prime is discarded (rules R55,
R69). -/
def keyAnswer (v : Word) (r : Run) : KeyMove :=
  if isPrime v then
    match r.stage with
    | .findQ p => keyGuard p v r
    | _ => .goOn (requestDraw { r with stage := .findQ v })
  else .goOn (requestDraw r)

/-- One move of `genkey()` (rules R69, R90): all draws for `p`, then all draws for `q`, one at a time. -/
def keyMove (r : Run) : KeyMove :=
  match r.draw with
  | .idle => .goOn (requestDraw { r with stage := .findP })
  | .requested _ _ => .wait
  | .answered v => keyAnswer v r

/-- GENKEY (rule R71): `RES0 <- p`, `RES1 <- q`, `OVF <- ovf`. -/
def execGenkey (s : State) : Host.Outcome State Fault Refusal :=
  onRun s fun r =>
    match keyMove r with
    | .goOn r' => goOn s r'
    | .wait => s
    | .found p q r' => complete s r' (Results.two p q)
    | .divZero => raiseFatal .divZero s

end Sys2Proof.Machine
end

