-- ==== Sys2Proof/Machine/Modexp.lean ====
section
/-! DEFINITION. The meaning of MODEXP (rule R48), and the exponentiation that ends a command, shared with
ENCRYPT and DECRYPT (rules R73, R77). -/

namespace Sys2Proof.Machine

/-- Run `modexp(x, y, m)` as the last function of a command: fault on a zero modulus (rules R47, R95), else
complete with the results `out` of its value. -/
def finishModexp (s : State) (r : Run) (x y m : Word) (out : Word → Results) : State :=
  match modexp x y m with
  | some v => complete s r (out v)
  | none => raiseFatal .zeroModulus s

/-- MODEXP (rule R48): `RES0 <- modexp(a, b, c)`. -/
def execModexp (s : State) : Host.Outcome State Fault Refusal :=
  onRun s fun r => finishModexp s r r.a r.b r.c Results.one

end Sys2Proof.Machine
end

