-- ==== Sys2Proof/Machine/Crypt.lean ====
section
/-! DEFINITION. The meanings of ENCRYPT (rules R73 to R76) and DECRYPT (rules R77 to R80). -/

namespace Sys2Proof.Machine

/-- The end of the key search in ENCRYPT (rules R73, R75): `n <- p *_64 q`, `Emit Info(p, q, n)`, and the
exponentiation is left. -/
def announceKey (s : State) (r : Run) (p q : Word) : State :=
  goOn (emitInfo p q (p * q) s) { r with stage := .exponentiate p q, draw := .idle }

/-- ENCRYPT (rules R73, R74): key search, `Info`, then `RES0 <- p`, `RES1 <- q`,
`RES2 <- modexp(a, 65537, p *_64 q)`. -/
def execEncrypt (s : State) : Host.Outcome State Fault Refusal :=
  onRun s fun r =>
    match r.stage with
    | .exponentiate p q => finishModexp s r r.a Config.publicExponent (p * q) (Results.three p q)
    | _ =>
      match keyMove r with
      | .goOn r' => goOn s r'
      | .wait => s
      | .found p q r' => announceKey s r' p q
      | .divZero => raiseFatal .divZero s

/-- The part of DECRYPT after `L <- lcm(p -_64 1, q -_64 1)` (rule R77): `d <- modinv(65537, L)`, which is
`ANY_u64` where there is no inverse, then `RES0 <- modexp(ct, d, p *_64 q)`. -/
def decryptWith (s : State) (r : Run) (l : Word) : State :=
  match modinv Config.publicExponent l with
  | some d => finishModexp s r r.c d (r.a * r.b) Results.one
  | none => finishModexp (takeAny s).2 { r with accNoinv := true } r.c (takeAny s).1 (r.a * r.b) Results.one

/-- DECRYPT (rules R77, R78): operands `p`, `q`, `ciphertext`; `Fatal(DIV_ZERO)` from `lcm`, then
`Fatal(ZERO_MODULUS)` from `modexp`, in that order. -/
def execDecrypt (s : State) : Host.Outcome State Fault Refusal :=
  onRun s fun r =>
    match lcmWord (r.a - 1#64) (r.b - 1#64) with
    | .divZero => raiseFatal .divZero s
    | .value l o => decryptWith s { r with accOvf := r.accOvf || o } l

end Sys2Proof.Machine
end

