-- ==== Sys2Proof/Machine/GcdLcm.lean ====
section
/-! DEFINITION. The meanings of GCD (rule R59) and LCM (rule R61). -/

namespace Sys2Proof.Machine

/-- GCD (rule R59): `RES0 <- gcd(a, b)`. -/
def execGcd (s : State) : Host.Outcome State Fault Refusal :=
  onRun s fun r => complete s r (Results.one (gcdWord r.a r.b))

/-- LCM (rule R61): `RES0 <- lcm(a, b)`, `OVF <- ovf`; `Fatal(DIV_ZERO)` when both operands are 0. -/
def execLcm (s : State) : Host.Outcome State Fault Refusal :=
  onRun s fun r =>
    match lcmWord r.a r.b with
    | .value v o => complete s { r with accOvf := r.accOvf || o } (Results.one v)
    | .divZero => raiseFatal .divZero s

end Sys2Proof.Machine
end

