-- ==== Sys2Proof/Machine/Modinv.lean ====
section
/-! DEFINITION. The meaning of MODINV (rule R67). -/

namespace Sys2Proof.Machine

/-- MODINV (rules R64, R66, R67): `RES0 <- modinv(a, b)`; without an inverse the value is the next `ANY_u64` and
`NOINV` is set. -/
def execModinv (s : State) : Host.Outcome State Fault Refusal :=
  onRun s fun r =>
    match modinv r.a r.b with
    | some x => complete s r (Results.one x)
    | none => complete (takeAny s).2 { r with accNoinv := true } (Results.one (takeAny s).1)

end Sys2Proof.Machine
end

