-- ==== Sys2Proof/Machine/Prime.lean ====
section
/-! DEFINITION. The meanings of PRIMALITY (rule R54) and PRIMEGEN (rules R55 to R57). -/

namespace Sys2Proof.Machine

/-- PRIMALITY (rule R54): `RES0 <- 1` if `a` is prime, else 0. -/
def execPrimality (s : State) : Host.Outcome State Fault Refusal :=
  onRun s fun r => complete s r (Results.one (boolWord (isPrime r.a)))

/-- One move of `primegen` (rule R55): request a draw; wait for the answer; test it; return it or draw again. -/
def primegenMove (s : State) (r : Run) : State :=
  match r.draw with
  | .idle => goOn s (requestDraw { r with stage := .findP })
  | .requested _ _ => s
  | .answered v => if isPrime v then complete s r (Results.one v) else goOn s (requestDraw r)

/-- PRIMEGEN (rule R56): `RES0 <- primegen()`. While no answer has come the core stays RUNNING (rule R57). -/
def execPrimegen (s : State) : Host.Outcome State Fault Refusal :=
  onRun s fun r => primegenMove s r

end Sys2Proof.Machine
end

