-- ==== Sys2Proof/Machine/Dispatch.lean ====
section
/-! DEFINITION. One arm per command: a move of the core on the running command (rule R83). -/

namespace Sys2Proof.Machine

def exec (i : Instr) (s : State) : Host.Outcome State Fault Refusal :=
  match i with
  | .modexp => Sys2Proof.Machine.execModexp s
  | .primality => Sys2Proof.Machine.execPrimality s
  | .primegen => Sys2Proof.Machine.execPrimegen s
  | .gcd => Sys2Proof.Machine.execGcd s
  | .lcm => Sys2Proof.Machine.execLcm s
  | .modinv => Sys2Proof.Machine.execModinv s
  | .genkey => Sys2Proof.Machine.execGenkey s
  | .encrypt => Sys2Proof.Machine.execEncrypt s
  | .decrypt => Sys2Proof.Machine.execDecrypt s

end Sys2Proof.Machine
end

