-- ==== Sys2Proof/Machine/Step.lean ====
section
/-! DEFINITION. One step: the agent whose turn it is moves (rules R6, R35); the core's turn runs the latched
command (rule R83). -/

namespace Sys2Proof.Machine

/-- The core's turn: a move of the latched command; an IDLE, FINISHED or HALTED core does nothing (rules R100,
R105). -/
def coreTurn (s : State) : Host.Outcome State Fault Refusal :=
  match s.running with
  | some r => exec r.op s
  | none => .next s

/-- One step of the machine. -/
def step (s : State) : Host.Outcome State Fault Refusal :=
  match s.nextAgent with
  | .host => hostTurn (popTurn s)
  | .core => coreTurn (popTurn s)
  | .source => sourceTurn (popTurn s)

/-- The state whose next step runs the command word `w` of `nbits` bits (log entry 8). -/
def State.withFetchWord (s : State) (nbits w : Nat) : State :=
  placeCommand (decodeTableWord nbits w) (BitVec.ofNat 64 (w % 2 ^ nbits)) s

end Sys2Proof.Machine
end

