-- ==== Sys2Proof/Machine/Script.lean ====
section
/-! DEFINITION. The macros of the host script (rule R46): `mov`, `call`, and the source's driver. -/

namespace Sys2Proof.Machine

/-- `cmd MNEMONIC` (rule R44): a write of the command's word to `CMD`. -/
def cmdLine (op : Instr) : Line := .cmd (encode op)

/-- `mov OPx, RESy`: `rd RESy -> t` then `wr OPx, t` (rule R46), with the script variable `t`. -/
def movMacro (dst src : Reg) (t : Nat) : List Line := [.rdTo src t, .wr dst (.name t)]

/-- The operand, a number or a script variable (rule R44), that a `wr` line of `call` gives to an operand register
(rules R41, R46). No command reads another register (`readsOf`). -/
def operandFor (a b c : Val) : Reg → Val
  | .opa => a
  | .opb => b
  | .opc => c
  | .cmd => .lit 0#64
  | .status => .lit 0#64
  | .res0 => .lit 0#64
  | .res1 => .lit 0#64
  | .res2 => .lit 0#64

/-- `call MNEMONIC a, b, c` (rule R46): a `wr` line for each operand the command reads, whose value is a number or a
script variable; the command; `wait`. -/
def callMacro (op : Instr) (a b c : Val) : List Line :=
  (readsOf op).map (fun r => .wr r (operandFor a b c r)) ++ [cmdLine op, .wait]

/-- The source's driver (rule R46): encrypt a message, then decrypt with the returned factors and ciphertext. -/
def driverScript (message : Word) : List Line :=
  callMacro .encrypt (.lit message) (.lit 0#64) (.lit 0#64) ++ [.rd .res2] ++ movMacro .opa .res0 0 ++ movMacro .opb .res1 0
    ++ movMacro .opc .res2 0 ++ [cmdLine .decrypt, .wait, .rd .res0]

end Sys2Proof.Machine
end

