-- ==== Sys2Proof/Safety.lean ====
section
/-! DEFINITION. The terms claims are stated in: the four conditions of the core (rule R16), the states a command
leaves (rules R84, R85), the end of a run (rule R91), and the invariant every step keeps. -/

namespace Sys2Proof.Machine

/-- The four conditions of the core (rules R16, R81). -/
inductive Condition where
  | idle
  | running
  | finished
  | halted
deriving DecidableEq, Repr

/-- The condition `STATUS` tells (rule R16). -/
def State.condition (s : State) : Condition :=
  if s.fatal then .halted else if s.busy then .running else if s.doneFlag then .finished else .idle

/-- `s` after a command completed with these results and flags, and nothing else changed (rule R84). -/
def finishedWith (s : State) (res0 res1 res2 : Word) (ovf noinv : Bool) : State :=
  { s with
    res0 := res0
    res1 := res1
    res2 := res2
    ovf := ovf
    noinv := noinv
    doneFlag := true
    busy := false
    running := none }

/-- `s` after a fault with this code, and nothing else changed (rule R85). -/
def haltedWith (s : State) (code : BitVec 8) : State :=
  { s with
    fatal := true
    fault := code
    busy := false
    doneFlag := false
    ovf := false
    noinv := false
    running := none }

/-- The commands that draw random numbers (rules R56, R71, R74). -/
def drawsNumbers : Instr → Bool
  | .modexp => false
  | .primality => false
  | .primegen => true
  | .gcd => false
  | .lcm => false
  | .modinv => false
  | .genkey => true
  | .encrypt => true
  | .decrypt => false

/-- The commands that search for a key pair (rules R69, R73). -/
def findsKey (op : Instr) : Bool := op == .genkey || op == .encrypt

/-- While a command looks for a prime, it has a draw of `[2^30, 2^31)` outstanding or an answer in hand (rule
R23). -/
def Draw.seeking : Draw → Prop
  | .idle => False
  | .requested lo hi => lo = Config.primeLo ∧ hi = Config.primeHi
  | .answered _ => True

/-- The working state a running command can have (rules R21, R55, R69, R73). -/
def Run.legal (r : Run) : Prop :=
  r.accNoinv = false ∧
  match r.stage with
  | .start => r.draw = .idle ∧ r.accOvf = false
  | .findP => drawsNumbers r.op = true ∧ r.draw.seeking ∧ r.accOvf = false
  | .findQ p => findsKey r.op = true ∧ r.draw.seeking ∧ isPrime p = true
  | .exponentiate p q => r.op = .encrypt ∧ r.draw = .idle ∧ isPrime p = true ∧ isPrime q = true

/-- `BUSY`, `DONE` and `FATAL` are never two at once (rule R16). -/
def State.oneCondition (s : State) : Prop :=
  (s.busy = true → s.doneFlag = false ∧ s.fatal = false) ∧ (s.doneFlag = true → s.fatal = false)

/-- `FAULT` holds the code of the fault that halted the core, and 0 otherwise (rules R19, R94). -/
def State.faultLegal (s : State) : Prop :=
  if s.fatal then s.fault = 0x01#8 ∨ s.fault = 0x02#8 ∨ s.fault = 0x03#8 else s.fault = 0x00#8

/-- Every draw asked for `[2^30, 2^31)` (rule R23), and every `Info` carried two primes and their product (rules
R69, R75). -/
def State.tracesLegal (s : State) : Prop :=
  (∀ d ∈ s.draws, d.lo = Config.primeLo ∧ d.hi = Config.primeHi) ∧
  (∀ e ∈ s.infos, isPrime e.p = true ∧ isPrime e.q = true ∧ e.n = e.p * e.q)

/-- The invariant of the machine: one condition (R16), `BUSY` exactly while a command is latched (R10, R20), flags
only after a completed command (R17, R18, R115), a legal fault code (R19), a legal working state and legal
traces. -/
def State.Inv (s : State) : Prop :=
  s.oneCondition ∧
  s.busy = s.running.isSome ∧
  (s.ovf = true → s.doneFlag = true) ∧
  (s.noinv = true → s.doneFlag = true) ∧
  s.faultLegal ∧
  (∀ r, s.running = some r → r.legal) ∧
  s.tracesLegal

/-- The integer value `modexp` has for a modulus `m` that is not 0 (rules R47, R51): `x^y mod m` but for its two
quirks, `x = 0` giving 0 and `y = 0` giving an unreduced 1. -/
def modexpValue (x y m : Nat) : Word :=
  if x = 0 then 0#64 else if y = 0 then 1#64 else BitVec.ofNat 64 (x ^ y % m)

/-- The integer value `lcm` has where it does not fault (rule R60): the product wrapped to 64 bits, floor-divided by
the greatest common divisor. -/
def wrappedLcm (x y : Nat) : Nat := x * y % 2 ^ 64 / Nat.gcd x y

/-- `x` is the one number below `m` with `a * x` congruent to 1 modulo `m` (rule R64; for `m = 1` that is 0). -/
def IsInverse (a m x : Nat) : Prop :=
  x < m ∧ a * x % m = 1 % m ∧ ∀ y, y < m → a * y % m = 1 % m → y = x

/-- `v` is a prime in the range every draw asks for (rules R23, R55). -/
def PrimeInDuty (v : Word) : Prop := Nat.Prime v.toNat ∧ 2 ^ 30 ≤ v.toNat ∧ v.toNat < 2 ^ 31

/-- The draw of `[2^30, 2^31)` answered by `v` (rule R23). -/
def drawOf (v : Word) : DrawRecord := ⟨0x40000000#64, 0x80000000#64, v⟩

/-- A draw request of `[2^30, 2^31)` (rule R23). -/
def dutyRequest : Draw := .requested 0x40000000#64 0x80000000#64

/-- `n` times the random source's turn and then the core's. -/
def drawTurns (n : Nat) : List Agent := (List.replicate n [Agent.source, Agent.core]).flatten

/-- `k` steps of the machine, as long as each answers a next state. -/
def runSteps : Nat → State → Host.Outcome State Fault Refusal
  | 0, s => .next s
  | k + 1, s =>
    match step s with
    | .next t => runSteps k t
    | .fault e => .fault e
    | .refused e => .refused e

/-- The run has ended: the host script has no line left and the core is not RUNNING (rule R91). -/
def State.ended (s : State) : Bool := s.script.isEmpty && !s.busy

/-- A good end: the core is IDLE or FINISHED (rule R91). -/
def State.goodEnd (s : State) : Bool := s.ended && !s.fatal

/-- A bad end: the core is HALTED (rule R91). -/
def State.badEnd (s : State) : Bool := s.ended && s.fatal

/-- The next line the host performs is `reset`, and it is the host's turn (rules R44, R106). -/
def State.resetsNext (s : State) : Prop := s.nextAgent = .host ∧ ∃ rest, s.script = .reset :: rest

end Sys2Proof.Machine
end

