-- ==== Sys2Proof/Certificates/Slice0/Obligations.lean ====
section
/-! DEFINITION. The statements about TRSA-CORE for the provers, each citing the rules of the spec it rests on. -/

open Sys2Proof Sys2Proof.Machine

/-- The nine words of the opcode table, written out bit by bit, and four illegal words (rules R39, R40, R43). -/
def Obligations.CommandWordsReadAsTabled : Prop :=
  decode 0b0000000000000000000000000000000000000000000000000000000000000001#64 = .ok .modexp ∧
  decode 0b0000000000000000000000000000000000000000000000000000000000000010#64 = .ok .primality ∧
  decode 0b0000000000000000000000000000000000000000000000000000000000000011#64 = .ok .primegen ∧
  decode 0b0000000000000000000000000000000000000000000000000000000000000100#64 = .ok .gcd ∧
  decode 0b0000000000000000000000000000000000000000000000000000000000000101#64 = .ok .lcm ∧
  decode 0b0000000000000000000000000000000000000000000000000000000000000110#64 = .ok .modinv ∧
  decode 0b0000000000000000000000000000000000000000000000000000000000000111#64 = .ok .genkey ∧
  decode 0b0000000000000000000000000000000000000000000000000000000000001000#64 = .ok .encrypt ∧
  decode 0b0000000000000000000000000000000000000000000000000000000000001001#64 = .ok .decrypt ∧
  decode 0x0000000000000000#64 = .bad .opcodeZero ∧
  decode 0x000000000000000A#64 = .bad .opcodeReserved ∧
  decode 0x0000000000000011#64 = .bad .zeroField ∧
  decode 0x8000000000000001#64 = .bad .zeroField

/-- Rule R40: a word selects the command with opcode `k` if and only if it is `k`; the decoder refuses a word exactly
when bits 63:4 are not 0, or bits 3:0 are 0, or bits 3:0 are at least 10. -/
def Obligations.DecodeInvertsEncodeExactly : Prop :=
  (∀ i, decode (encode i) = .ok i) ∧
  (∀ (w : Word) (i : Instr), decode w = .ok i ↔ w = BitVec.ofNat 64 (opcodeOf i).toNat) ∧
  (∀ i, 1 ≤ (opcodeOf i).toNat ∧ (opcodeOf i).toNat ≤ 9) ∧
  (∀ w : Word, (∃ why, decode w = .bad why) ↔
    w.extractLsb' 4 60 ≠ 0#60 ∨ w.extractLsb' 0 4 = 0#4 ∨ 10 ≤ (w.extractLsb' 0 4).toNat)

/-- Rule R31: byte `k` of word `i` is bits `8*k+7 : 8*k`, the lowest address first, and eight bytes read back as the
word. -/
def Obligations.RegisterBytesAreLittleEndian : Prop :=
  (∀ w : Word, (wordBytes w).length = 8 ∧
    (∀ k, k < 8 → (wordBytes w)[k]? = some (w.extractLsb' (8 * k) 8)) ∧
    wordOfBytes (wordBytes w) = w ∧ decodeBytes (wordBytes w) = decode w) ∧
  (∀ (s : State) (i k : Nat), i < 8 → k < 8 →
    s.byteAt (8 * i + k) = (s.regRead (BitVec.ofNat 3 i)).extractLsb' (8 * k) 8)

/-- Rules R12 and R45: the register words stand at the byte offsets 0x00 to 0x38, and a transaction and its tuple say
the same. -/
def Obligations.HostTuplesRoundTrip : Prop :=
  [Reg.opa, .opb, .opc, .cmd, .status, .res0, .res1, .res2].map Reg.offset
    = [0x00, 0x08, 0x10, 0x18, 0x20, 0x28, 0x30, 0x38] ∧
  (∀ r : Reg, Reg.ofIndex r.index = r) ∧
  (∀ t : Txn, Txn.ofTuple t.tuple = some t) ∧
  (∀ (i : BitVec 3) (v : Word), (Txn.write i v).tuple = (true, 8 * i.toNat, some v)) ∧
  (∀ i : BitVec 3, (Txn.read i).tuple = (false, 8 * i.toNat, none))

/-- Rule R30: a platform bus access is accepted exactly when its size is 8 and its address is `BASE + 8*i`; any other
is refused by name. That the address is absolute, as rules R28 and R30 write it, and no offset from `BASE`, as rule R9
words it, is the model's choice (log entry 21). -/
def Obligations.BusAcceptsExactlyWholeWords : Prop :=
  (∀ (base addr size : Nat) (i : BitVec 3),
    busIndex base addr size = .ok i ↔ size = 8 ∧ addr = base + 8 * i.toNat) ∧
  (∀ (s : State) (addr size : Nat) (v : Word) (rest : List Line), s.nextAgent = .host →
    (s.script = .busWrite addr size v :: rest ∨ s.script = .busRead addr size :: rest) →
    (¬∃ i : BitVec 3, size = 8 ∧ addr = Config.base + 8 * i.toNat) → ∃ e, step s = .refused e) ∧
  (∀ (s : State) (i : BitVec 3) (v : Word) (rest : List Line), s.nextAgent = .host →
    s.script = .busWrite (Config.base + 8 * i.toNat) 8 v :: rest →
    step s = .next (regWrite i v { s with schedule := s.schedule.tail, script := rest })) ∧
  (∀ (s : State) (i : BitVec 3) (rest : List Line), s.nextAgent = .host →
    s.script = .busRead (Config.base + 8 * i.toNat) 8 :: rest →
    step s = .next { s with
      schedule := s.schedule.tail, script := rest, reads := s.reads ++ [⟨i, s.regRead i⟩] })

/-- A step of the core runs the latched command (rule R83); a command word placed for the next step is latched with
the operand registers and run by that step (how a word is placed is the model's choice: log entry 8). -/
def Obligations.StepRunsTheLatchedCommand : Prop :=
  (∀ (s : State) (r : Run), s.nextAgent = .core → s.running = some r →
    step s = exec r.op { s with schedule := s.schedule.tail }) ∧
  (∀ (s : State) (nbits w : Nat) (i : Instr), decodeTableWord nbits w = some i →
    (s.withFetchWord nbits w).running = some (Run.fresh i s.opa s.opb s.opc) ∧
    step (s.withFetchWord nbits w) = exec i { s.withFetchWord nbits w with schedule := s.schedule })

/-- Rule R82: a `CMD` write while `BUSY = 0` and `FATAL = 0` latches a legal command and clears `DONE` and the flags,
and raises `Fatal(ILLEGAL_CMD)` for any other word; a `cmd` line of the script is that write. -/
def Obligations.CommandWriteAcceptsOrFaults : Prop :=
  (∀ (s : State) (w : Word), s.busy = false → s.fatal = false →
    (∀ i, w = encode i → regWrite 3#3 w s = { s with
      busy := true, doneFlag := false, ovf := false, noinv := false,
      running := some
        { op := i, a := s.opa, b := s.opb, c := s.opc
          accOvf := false, accNoinv := false, stage := .start, draw := .idle } }) ∧
    ((∀ i, w ≠ encode i) → regWrite 3#3 w s = haltedWith s 0x03#8)) ∧
  (∀ (s : State) (w : Word) (rest : List Line), s.nextAgent = .host → s.script = .cmd w :: rest →
    step s = .next (regWrite 3#3 w { s with schedule := s.schedule.tail, script := rest }))

/-- Rule R86: a `CMD` write while `BUSY = 1` or `FATAL = 1` changes nothing, whatever the word. -/
def Obligations.CommandWritesIgnoredWhileBusyOrHalted : Prop :=
  (∀ (s : State) (w : Word), (s.busy = true ∨ s.fatal = true) → regWrite 3#3 w s = s) ∧
  (∀ (s : State) (w : Word) (rest : List Line), (s.busy = true ∨ s.fatal = true) → s.nextAgent = .host →
    s.script = .cmd w :: rest → step s = .next { s with schedule := s.schedule.tail, script := rest })

/-- Rules R47, R48, R84: a latched MODEXP with a modulus that is not 0 completes with the value of `modexp`, and
changes nothing else. -/
def Obligations.ModexpResult : Prop :=
  ∀ (s : State) (a b c : Word), s.running = some (Run.fresh .modexp a b c) → c ≠ 0#64 →
    exec .modexp s = .next (finishedWith s (modexpValue a.toNat b.toNat c.toNat) s.res1 s.res2 false false)

/-- Rules R95, R85, R93: the fault `ZERO_MODULUS` of MODEXP and of DECRYPT halts the core and changes no register.
That only the model's count of free values may move besides, in DECRYPT, is the model's choice (log entry 2). -/
def Obligations.ZeroModulusHalts : Prop :=
  ∀ (s : State) (r : Run), s.running = some r →
    (r.c = 0#64 → exec .modexp s = .next (haltedWith s 0x01#8)) ∧
    (r.a * r.b = 0#64 → ∃ k, (k = s.anys ∨ k = s.anys + 1) ∧
      exec .decrypt s = .next { haltedWith s 0x01#8 with anys := k })

/-- Rule R96: the fault `DIV_ZERO` is raised exactly where `lcm` is evaluated on two zeros, by LCM and by DECRYPT. -/
def Obligations.DivZeroHalts : Prop :=
  (∀ x y : Word, lcmWord x y = .divZero ↔ x = 0#64 ∧ y = 0#64) ∧
  ∀ (s : State) (r : Run), s.running = some r →
    (r.a = 0#64 → r.b = 0#64 → exec .lcm s = .next (haltedWith s 0x02#8)) ∧
    (r.a = 1#64 → r.b = 1#64 → exec .decrypt s = .next (haltedWith s 0x02#8))

/-- Rule R51: `modexp` is `x^y mod m` but in two cases. -/
def Obligations.ModexpFunctionValue : Prop :=
  ∀ x y m : Word, m ≠ 0#64 → ∃ v, modexp x y m = some v ∧
    (x = 0#64 → y = 0#64 → 2 ≤ m.toNat → v = 0#64) ∧
    (x ≠ 0#64 → y = 0#64 → m = 1#64 → v = 1#64) ∧
    (¬(x = 0#64 ∧ y = 0#64 ∧ 2 ≤ m.toNat) → ¬(x ≠ 0#64 ∧ y = 0#64 ∧ m = 1#64) →
      v.toNat = x.toNat ^ y.toNat % m.toNat)

/-- Rule R50: the loop over the exponent's bits computes the recursion's value. -/
def Obligations.ModexpLoopFormAgrees : Prop :=
  ∀ x y m : Word, m ≠ 0#64 → x ≠ 0#64 → modexp x y m = some (modexpLoop x y m 64 1#64)

/-- Rule R53: trial division is exact for every 64-bit candidate. -/
def Obligations.PrimalityIsExact : Prop :=
  ∀ n : Word, isPrime n = true ↔ Nat.Prime n.toNat

/-- Rule R54: a latched PRIMALITY completes with 1 for a prime and 0 otherwise, and changes nothing else. -/
def Obligations.PrimalityResult : Prop :=
  ∀ (s : State) (a b c : Word), s.running = some (Run.fresh .primality a b c) →
    exec .primality s =
      .next (finishedWith s (if Nat.Prime a.toNat then 1#64 else 0#64) s.res1 s.res2 false false)

/-- Rules R55, R56: PRIMEGEN with a prime answer in hand completes with it, and changes nothing else; the answer need
not lie in the range. -/
def Obligations.PrimegenCompletesOnPrime : Prop :=
  ∀ (s : State) (a b c v : Word),
    s.running = some { Run.fresh .primegen a b c with stage := .findP, draw := .answered v } →
    Nat.Prime v.toNat → exec .primegen s = .next (finishedWith s v s.res1 s.res2 false false)

/-- Rules R23, R55, R57: PRIMEGEN first requests a draw, waits while it is outstanding, and draws again after an
answer that is not prime (the cut into moves is the model's: log entry 6). -/
def Obligations.PrimegenDrawsUntilPrime : Prop :=
  ∀ (s : State) (a b c : Word),
    (s.running = some (Run.fresh .primegen a b c) → exec .primegen s =
      .next { s with running := some { Run.fresh .primegen a b c with stage := .findP, draw := dutyRequest } }) ∧
    (∀ lo hi, s.running = some { Run.fresh .primegen a b c with stage := .findP, draw := .requested lo hi } →
      exec .primegen s = .next s) ∧
    (∀ v, s.running = some { Run.fresh .primegen a b c with stage := .findP, draw := .answered v } →
      ¬Nat.Prime v.toNat → exec .primegen s =
        .next { s with running := some { Run.fresh .primegen a b c with stage := .findP, draw := dutyRequest } })

/-- Rules R58, R59: a latched GCD completes with the greatest common divisor, and changes nothing else. -/
def Obligations.GcdResult : Prop :=
  ∀ (s : State) (a b c : Word), s.running = some (Run.fresh .gcd a b c) →
    exec .gcd s =
      .next (finishedWith s (BitVec.ofNat 64 (Nat.gcd a.toNat b.toNat)) s.res1 s.res2 false false)

/-- Rules R60, R61: a latched LCM, but for two zeros, completes with the wrapped product over the gcd and `OVF` exactly
when the product does not fit 64 bits, and changes nothing else. -/
def Obligations.LcmResult : Prop :=
  ∀ (s : State) (a b c : Word), s.running = some (Run.fresh .lcm a b c) → (a ≠ 0#64 ∨ b ≠ 0#64) →
    exec .lcm s = .next (finishedWith s (BitVec.ofNat 64 (wrappedLcm a.toNat b.toNat)) s.res1 s.res2
      (decide (2 ^ 64 ≤ a.toNat * b.toNat)) false)

/-- Rule R63: without overflow `gcd * lcm` is the product (and `lcm` the least common multiple); with overflow it is
not in general. -/
def Obligations.GcdTimesLcmIsProduct : Prop :=
  (∀ x y : Word, (x ≠ 0#64 ∨ y ≠ 0#64) → x.toNat * y.toNat < 2 ^ 64 →
    ∃ v, lcmWord x y = .value v false ∧ v.toNat = Nat.lcm x.toNat y.toNat ∧
      (gcdWord x y).toNat * v.toNat = x.toNat * y.toNat) ∧
  (∃ x y v : Word, lcmWord x y = .value v true ∧ (gcdWord x y).toNat * v.toNat ≠ x.toNat * y.toNat)

/-- Rules R64, R67: a latched MODINV whose inverse exists completes with it, `NOINV = 0`, and changes nothing else; a
modulus of 1 gives 0. -/
def Obligations.ModinvResult : Prop :=
  ∀ (s : State) (a b c : Word), s.running = some (Run.fresh .modinv a b c) → b ≠ 0#64 →
    Nat.gcd a.toNat b.toNat = 1 →
    ∃ x : Word, IsInverse a.toNat b.toNat x.toNat ∧
      exec .modinv s = .next (finishedWith s x s.res1 s.res2 false false)

/-- Rules R66, R67: without an inverse MODINV completes with `NOINV = 1` and the next free value in `RES0`, about
which nothing is said (the numbering of the free values is the model's: log entry 2). -/
def Obligations.ModinvWithoutInverse : Prop :=
  ∀ (s : State) (a b c : Word), s.running = some (Run.fresh .modinv a b c) →
    (b = 0#64 ∨ (2 ≤ b.toNat ∧ Nat.gcd a.toNat b.toNat ≠ 1)) →
    exec .modinv s =
      .next { finishedWith s (Config.anyU64 s.anys) s.res1 s.res2 false true with anys := s.anys + 1 }

/-- Rule R68: the round trips of `modinv`, its special case `m = 1`, and the source's concrete double inverse. -/
def Obligations.ModinvRoundTrips : Prop :=
  (∀ a m : Word, 2 ≤ m.toNat → Nat.gcd a.toNat m.toNat = 1 →
    ∃ x y, modinv a m = some x ∧ a.toNat * x.toNat % m.toNat = 1 ∧
      modinv x m = some y ∧ y.toNat = a.toNat % m.toNat) ∧
  (∀ a : Word, modinv a 1#64 = some 0#64) ∧
  modinv 0xFFFFFFFFFFFFF000#64 0xFFFFFFFFFFFFFFC5#64 = some 0x504809A38B10CDE5#64 ∧
  modinv 0x504809A38B10CDE5#64 0xFFFFFFFFFFFFFFC5#64 = some 0xFFFFFFFFFFFFF000#64

/-- Rules R69, R90: the key search of GENKEY and ENCRYPT requests a draw, waits, discards an answer that is not prime,
keeps the first prime as `p` and goes on to `q`; each of these moves changes nothing but the working state (the cut
into moves is the model's: log entry 6). -/
def Obligations.KeySearchMoves : Prop :=
  ∀ (s : State) (r : Run) (i : Instr), (i = .genkey ∨ i = .encrypt) → s.running = some r →
    (r.stage = .start → r.draw = .idle →
      exec i s = .next { s with running := some { r with stage := .findP, draw := dutyRequest } }) ∧
    ((r.stage = .findP ∨ ∃ p, r.stage = .findQ p) →
      (∀ lo hi, r.draw = .requested lo hi → exec i s = .next s) ∧
      (∀ v, r.draw = .answered v → ¬Nat.Prime v.toNat →
        exec i s = .next { s with running := some { r with draw := dutyRequest } })) ∧
    (∀ v, r.stage = .findP → r.draw = .answered v → Nat.Prime v.toNat →
      exec i s = .next { s with running := some { r with stage := .findQ v, draw := dutyRequest } })

/-- Rule R69: once `q` is found, it is drawn again exactly while `E >= L` AND `gcd(E, L) != 1`; otherwise GENKEY
completes with `(p, q)` and ENCRYPT emits `Info` and goes on to the exponentiation (the cut into moves is the model's:
log entry 6). -/
def Obligations.KeyGuardIsAConjunction : Prop :=
  ∀ (s : State) (r : Run) (p q l : Word) (o : Bool), s.running = some r → r.stage = .findQ p →
    r.draw = .answered q → Nat.Prime q.toNat → lcmWord (p - 1#64) (q - 1#64) = .value l o →
    ((l.toNat ≤ 65537 ∧ Nat.gcd 65537 l.toNat ≠ 1) → ∀ i, (i = .genkey ∨ i = .encrypt) →
      exec i s = .next { s with running := some { r with accOvf := r.accOvf || o, draw := dutyRequest } }) ∧
    (¬(l.toNat ≤ 65537 ∧ Nat.gcd 65537 l.toNat ≠ 1) →
      exec .genkey s = .next (finishedWith s p q s.res2 (r.accOvf || o) r.accNoinv) ∧
      exec .encrypt s = .next { s with
        infos := s.infos ++ [⟨p, q, p * q⟩],
        running := some { r with accOvf := r.accOvf || o, stage := .exponentiate p q, draw := .idle } })

/-- Rules R70, R71: with primes in the generator's range the guard never holds, and GENKEY completes with its two
primes (equal ones among them), `OVF = 0`, and changes nothing else. -/
def Obligations.GenkeyResultInDuty : Prop :=
  ∀ (s : State) (a b c p q : Word), PrimeInDuty p → PrimeInDuty q →
    s.running = some { Run.fresh .genkey a b c with stage := .findQ p, draw := .answered q } →
    exec .genkey s = .next (finishedWith s p q s.res2 false false)

/-- Rules R73, R75, R76: with primes in range ENCRYPT's one event carries `p`, `q` and the exact product, before the
exponentiation; nothing else but the working state changes (that the event is a move of its own, which ends in the
working state `exponentiate`, is the model's choice: log entry 6). -/
def Obligations.EncryptEmitsInfoInDuty : Prop :=
  ∀ (s : State) (a b c p q : Word), PrimeInDuty p → PrimeInDuty q →
    s.running = some { Run.fresh .encrypt a b c with stage := .findQ p, draw := .answered q } →
    (p * q).toNat = p.toNat * q.toNat ∧
    exec .encrypt s = .next { s with
      infos := s.infos ++ [⟨p, q, BitVec.ofNat 64 (p.toNat * q.toNat)⟩],
      running := some { Run.fresh .encrypt a b c with stage := .exponentiate p q } }

/-- Rules R73, R74: after its event ENCRYPT completes with `p`, `q` and `modexp(a, 65537, p *_64 q)`, for any two
primes, and changes nothing else. -/
def Obligations.EncryptResult : Prop :=
  ∀ (s : State) (r : Run) (p q : Word), Nat.Prime p.toNat → Nat.Prime q.toNat → s.running = some r →
    r.stage = .exponentiate p q →
    exec .encrypt s = .next (finishedWith s p q (modexpValue r.a.toNat 65537 (p * q).toNat) r.accOvf r.accNoinv)

/-- Rules R77, R78: a latched DECRYPT that meets no fault and whose exponent exists completes with
`modexp(ct, d, p *_64 q)`, and changes nothing else. -/
def Obligations.DecryptResult : Prop :=
  ∀ (s : State) (a b c : Word), s.running = some (Run.fresh .decrypt a b c) →
    ¬(a = 1#64 ∧ b = 1#64) → a * b ≠ 0#64 →
    wrappedLcm (a - 1#64).toNat (b - 1#64).toNat ≠ 0 →
    Nat.gcd 65537 (wrappedLcm (a - 1#64).toNat (b - 1#64).toNat) = 1 →
    ∃ d : Word, IsInverse 65537 (wrappedLcm (a - 1#64).toNat (b - 1#64).toNat) d.toNat ∧
      exec .decrypt s = .next (finishedWith s (modexpValue c.toNat d.toNat (a * b).toNat) s.res1 s.res2
        (decide (2 ^ 64 ≤ (a - 1#64).toNat * (b - 1#64).toNat)) false)

/-- Rules R66, R77, R78: where `E` has no inverse modulo `L`, DECRYPT completes with `NOINV = 1` and the value of
`modexp` for a free exponent, about which nothing is said (the numbering of the free values is the model's: log entry
2). -/
def Obligations.DecryptWithoutInverse : Prop :=
  ∀ (s : State) (a b c : Word), s.running = some (Run.fresh .decrypt a b c) →
    ¬(a = 1#64 ∧ b = 1#64) → a * b ≠ 0#64 →
    Nat.gcd 65537 (wrappedLcm (a - 1#64).toNat (b - 1#64).toNat) ≠ 1 →
    exec .decrypt s = .next { finishedWith s
      (modexpValue c.toNat (Config.anyU64 s.anys).toNat (a * b).toNat) s.res1 s.res2
      (decide (2 ^ 64 ≤ (a - 1#64).toNat * (b - 1#64).toNat)) true with anys := s.anys + 1 }

/-- Rule R79: DECRYPT recovers the message ENCRYPT's exponentiation was given, for distinct primes, an exponent coprime
to `L`, and a message below `n`. -/
def Obligations.DecryptRecoversTheMessage : Prop :=
  ∀ (s : State) (p q msg ct : Word), Nat.Prime p.toNat → Nat.Prime q.toNat → p ≠ q →
    p.toNat * q.toNat < 2 ^ 64 → Nat.gcd 65537 (Nat.lcm (p.toNat - 1) (q.toNat - 1)) = 1 →
    msg.toNat < p.toNat * q.toNat → modexp msg 65537#64 (p * q) = some ct →
    s.running = some (Run.fresh .decrypt p q ct) →
    exec .decrypt s = .next (finishedWith s msg s.res1 s.res2 false false)

/-- Rules R55, R56, R90: given the answers, PRIMEGEN completes after the first prime one, having made one draw for
each answer up to it; under the schedule in which the source and the core take turns, in the model's moves (log
entries 4, 5 and 6). -/
def Obligations.PrimegenRunCompletes : Prop :=
  ∀ (s : State) (a b c v : Word) (xs rest : List Word) (l : List Agent),
    s.running = some (Run.fresh .primegen a b c) →
    (∀ x ∈ xs, ¬Nat.Prime x.toNat) → Nat.Prime v.toNat →
    s.answers = xs ++ v :: rest → s.schedule = .core :: drawTurns (xs.length + 1) ++ l →
    runSteps (2 * xs.length + 3) s = .next { finishedWith s v s.res1 s.res2 false false with
      answers := rest, schedule := l, draws := s.draws ++ (xs ++ [v]).map drawOf }

/-- Rules R73 to R75, R90: given answers that hold two primes in range, ENCRYPT completes with them and the
ciphertext, having drawn first for `p` and then for `q` and emitted one `Info`; in the model's turns and moves (log
entries 4, 5 and 6). -/
def Obligations.EncryptRunCompletes : Prop :=
  ∀ (s : State) (msg b c p q : Word) (xs ys rest : List Word) (l : List Agent),
    s.running = some (Run.fresh .encrypt msg b c) → PrimeInDuty p → PrimeInDuty q →
    (∀ x ∈ xs, ¬Nat.Prime x.toNat) → (∀ y ∈ ys, ¬Nat.Prime y.toNat) →
    s.answers = xs ++ p :: (ys ++ q :: rest) →
    s.schedule = .core :: drawTurns (xs.length + ys.length + 2) ++ .core :: l →
    runSteps (2 * xs.length + 2 * ys.length + 6) s =
      .next { finishedWith s p q (modexpValue msg.toNat 65537 (p.toNat * q.toNat)) false false with
        answers := rest, schedule := l,
        draws := s.draws ++ (xs ++ [p] ++ ys ++ [q]).map drawOf,
        infos := s.infos ++ [⟨p, q, BitVec.ofNat 64 (p.toNat * q.toNat)⟩] }

/-- Rule R26: what reset leaves where the spec gives a value (what it leaves in the data registers is not stated). -/
def Obligations.ResetValues : Prop :=
  State.reset.busy = false ∧ State.reset.doneFlag = false ∧ State.reset.fatal = false ∧
  State.reset.ovf = false ∧ State.reset.noinv = false ∧ State.reset.fault = 0x00#8 ∧
  State.reset.regRead 4#3 = 0#64 ∧ State.reset.regRead 3#3 = 0#64 ∧ State.reset.running = none ∧
  State.reset.rngPort = none ∧ State.reset.infos = [] ∧ State.reset.outputs = ⟨false, false, false, 0x00#8⟩ ∧
  State.reset.condition = .idle

/-- Rules R106, R108, R109: a reset, in any condition of the core, gives the reset values, drops a running command and
its draw, and leaves the data registers free values (one for each, the model's choice: log entries 2 and 3); a
transaction presented on the same edge is not performed. That the script, its variables, the reads, the answers not
yet given and the schedule are kept is the model's choice (log entry 16). -/
def Obligations.ResetAbandonsTheCommand : Prop :=
  (∀ (s : State) (rest : List Line), s.nextAgent = .host → s.script = .reset :: rest →
    step s = .next { s with
      opa := Config.anyU64 s.anys, opb := Config.anyU64 (s.anys + 1), opc := Config.anyU64 (s.anys + 2),
      res0 := Config.anyU64 (s.anys + 3), res1 := Config.anyU64 (s.anys + 4), res2 := Config.anyU64 (s.anys + 5),
      busy := false, doneFlag := false, fatal := false, ovf := false, noinv := false, fault := 0x00#8,
      running := none, anys := s.anys + 6, script := rest, schedule := s.schedule.tail }) ∧
  (∀ (s : State) (t : Txn), hostEdge true (some t) s = hostEdge true none s) ∧
  (∀ s : State, (resetEdge s).rngPort = none ∧ (resetEdge s).regRead 4#3 = 0#64 ∧
    (resetEdge s).condition = .idle)

/-- Rules R15, R32, R44: what a read of each word returns, bit by bit for `STATUS`, and that a read only hands its
value to the host; on the host's turn (log entry 4) a line `rd REG` is that read, and `rd REG -> name` binds the value
besides (log entry 11). -/
def Obligations.ReadsReturnTheRegisters : Prop :=
  ∀ s : State,
    s.regRead 0#3 = s.opa ∧ s.regRead 1#3 = s.opb ∧ s.regRead 2#3 = s.opc ∧ s.regRead 3#3 = 0#64 ∧
    s.regRead 5#3 = s.res0 ∧ s.regRead 6#3 = s.res1 ∧ s.regRead 7#3 = s.res2 ∧
    (s.regRead 4#3).getLsbD 0 = s.busy ∧ (s.regRead 4#3).getLsbD 1 = s.doneFlag ∧
    (s.regRead 4#3).getLsbD 2 = s.fatal ∧ (s.regRead 4#3).getLsbD 3 = s.ovf ∧
    (s.regRead 4#3).getLsbD 4 = s.noinv ∧ (s.regRead 4#3).extractLsb' 5 3 = 0#3 ∧
    (s.regRead 4#3).extractLsb' 8 8 = s.fault ∧ (s.regRead 4#3).extractLsb' 16 48 = 0#48 ∧
    (∀ i, performTxn (.read i) s = { s with reads := s.reads ++ [⟨i, s.regRead i⟩] }) ∧
    ∀ (r : Reg) (rest : List Line), s.nextAgent = .host →
      (s.script = .rd r :: rest → step s = .next { s with
        schedule := s.schedule.tail, script := rest, reads := s.reads ++ [⟨r.index, s.readReg r⟩] }) ∧
      (∀ n, s.script = .rdTo r n :: rest → step s = .next { s with
        schedule := s.schedule.tail, script := rest, reads := s.reads ++ [⟨r.index, s.readReg r⟩]
        vars := (n, s.readReg r) :: s.vars })

/-- Rules R33, R44: a write to an operand register sets it, in any condition of the core; a write to `CMD` presents a
command word; a write to `STATUS` or a result register is ignored; on the host's turn (log entry 4) a line `wr REG,
value` is that write. -/
def Obligations.WritesReachOnlyOperandsAndCommand : Prop :=
  ∀ (s : State) (v : Word),
    performTxn (.write 0#3 v) s = { s with opa := v } ∧
    performTxn (.write 1#3 v) s = { s with opb := v } ∧
    performTxn (.write 2#3 v) s = { s with opc := v } ∧
    performTxn (.write 3#3 v) s = presentCommand v s ∧
    performTxn (.write 4#3 v) s = s ∧ performTxn (.write 5#3 v) s = s ∧
    performTxn (.write 6#3 v) s = s ∧ performTxn (.write 7#3 v) s = s ∧
    ∀ (r : Reg) (x : Val) (rest : List Line), s.nextAgent = .host → s.script = .wr r x :: rest →
      s.valueOf x = some v →
      step s = .next (performTxn (.write r.index v) { s with schedule := s.schedule.tail, script := rest })

/-- Rule R20: a write to an operand register has no influence on the running command: making it before or after a move
of the core is the same. -/
def Obligations.OperandWritesDoNotDisturbTheRun : Prop :=
  ∀ (i : BitVec 3) (v : Word) (op : Instr) (s t : State), (i = 0#3 ∨ i = 1#3 ∨ i = 2#3) →
    exec op s = .next t → exec op (regWrite i v s) = .next (regWrite i v t)

/-- Rules R15 to R19: `STATUS` reads as one of nine words. -/
def Obligations.StatusIsOneOfNineWords : Prop :=
  ∀ s : State, s.Inv → s.regRead 4#3 ∈
    [0x0#64, 0x1#64, 0x2#64, 0xA#64, 0x12#64, 0x1A#64, 0x104#64, 0x204#64, 0x304#64]

/-- The invariant holds after reset (rule R26). -/
def Obligations.InvariantAtReset : Prop := State.reset.Inv

/-- Every step keeps the invariant: one condition at a time, a latched command exactly while `BUSY`, flags only after a
completed command, a legal fault code, draws only of `[2^30, 2^31)`, and `Info` only of two primes and their product
(rules R16 to R23, R55, R69, R75, R94). -/
def Obligations.InvariantKeptByEveryStep : Prop :=
  ∀ s t : State, s.Inv → step s = .next t → t.Inv

/-- Rule R16: the core is in exactly one of four conditions, and the condition changes only by accept and the fault of an
illegal word (a write of `CMD` in IDLE or FINISHED), complete, a fault of the running command, and reset. -/
def Obligations.ConditionChangesAsListed : Prop :=
  ∀ s : State, s.Inv →
    (s.condition = .idle ↔ s.busy = false ∧ s.doneFlag = false ∧ s.fatal = false) ∧
    (s.condition = .running ↔ s.busy = true ∧ s.doneFlag = false ∧ s.fatal = false) ∧
    (s.condition = .finished ↔ s.busy = false ∧ s.doneFlag = true ∧ s.fatal = false) ∧
    (s.condition = .halted ↔ s.busy = false ∧ s.doneFlag = false ∧ s.fatal = true) ∧
    (∀ op, (s.condition = .idle ∨ s.condition = .finished) → (accept op s).condition = .running) ∧
    (∀ r out, s.condition = .running → (complete s r out).condition = .finished) ∧
    (∀ code, (raiseFatal code s).condition = .halted) ∧ (resetEdge s).condition = .idle ∧
    ∀ t, step s = .next t →
      t.condition = s.condition ∨
      (s.resetsNext ∧ t.condition = .idle) ∨
      (s.nextAgent = .host ∧ (s.condition = .idle ∨ s.condition = .finished) ∧
        ∃ w, t = regWrite 3#3 w { s with script := t.script, schedule := t.schedule } ∧
          ((t.condition = .running ∧ ∃ i, w = encode i) ∨ (t.condition = .halted ∧ ∀ i, w ≠ encode i))) ∨
      (s.nextAgent = .core ∧ s.condition = .running ∧ (t.condition = .finished ∨ t.condition = .halted))

/-- Rule R100: only reset leaves HALTED; a halted core keeps its code and its results, draws nothing and emits
nothing. -/
def Obligations.HaltedUntilReset : Prop :=
  ∀ s t : State, s.Inv → s.fatal = true → ¬s.resetsNext → step s = .next t →
    t.fatal = true ∧ t.fault = s.fault ∧ t.running = none ∧ t.res0 = s.res0 ∧ t.res1 = s.res1 ∧
    t.res2 = s.res2 ∧ t.draws = s.draws ∧ t.infos = s.infos

/-- Rules R24, R75: only ENCRYPT emits `Info`, when it has found its two primes, and one event at a time. -/
def Obligations.InfoOnlyFromEncrypt : Prop :=
  ∀ s t : State, step s = .next t →
    t.infos = s.infos ∨
    (s.nextAgent = .core ∧ ∃ r p q, s.running = some r ∧ r.op = .encrypt ∧ r.stage = .findQ p ∧
      r.draw = .answered q ∧ t.infos = s.infos ++ [⟨p, q, p * q⟩] ∧
      ∃ r', t.running = some r' ∧ r'.op = .encrypt ∧ r'.stage = .exponentiate p q)

/-- Rules R23, R90: only PRIMEGEN, GENKEY and ENCRYPT draw; a step makes at most one draw, of `[2^30, 2^31)`, and takes
the source's next answer for it. -/
def Obligations.DrawsOnlyFromSearchingCommands : Prop :=
  ∀ s t : State, s.Inv → step s = .next t →
    (t.draws = s.draws ∧ t.answers = s.answers) ∨
    (s.nextAgent = .source ∧ ∃ r v, s.running = some r ∧ drawsNumbers r.op = true ∧ r.draw = dutyRequest ∧
      s.answers = v :: t.answers ∧ t.draws = s.draws ++ [drawOf v])

/-- Rules R11, R34: but for a reset, the result registers change only where a running command completes, and the operand
registers only on the host's turn. -/
def Obligations.RegistersChangeOnlyWhereWritten : Prop :=
  ∀ s t : State, s.Inv → ¬s.resetsNext → step s = .next t →
    ((t.res0 = s.res0 ∧ t.res1 = s.res1 ∧ t.res2 = s.res2) ∨
      (s.nextAgent = .core ∧ s.condition = .running ∧ t.condition = .finished)) ∧
    (s.nextAgent ≠ .host → t.opa = s.opa ∧ t.opb = s.opb ∧ t.opc = s.opc)

/-- Rules R17, R18: `OVF` rises only at a step of LCM, GENKEY, ENCRYPT or DECRYPT, `NOINV` only at one of MODINV or
DECRYPT. -/
def Obligations.FlagsRiseOnlyForTheirCommands : Prop :=
  ∀ s t : State, s.Inv → step s = .next t →
    (s.ovf = false → t.ovf = true → ∃ r, s.running = some r ∧
      r.op ∈ [Instr.lcm, .genkey, .encrypt, .decrypt]) ∧
    (s.noinv = false → t.noinv = true → ∃ r, s.running = some r ∧ r.op ∈ [Instr.modinv, .decrypt])

/-- Rule R113: the six commands that draw nothing always end, with a result or a fault. That they end at their first
move is the model's choice (log entry 6). -/
def Obligations.SixCommandsAlwaysEnd : Prop :=
  ∀ (i : Instr) (s : State) (r : Run), drawsNumbers i = false → s.running = some r →
    ∃ t, exec i s = .next t ∧ t.busy = false ∧ t.running = none ∧ (t.doneFlag = true ∨ t.fatal = true)

/-- Rule R94: PRIMALITY, PRIMEGEN, GCD, MODINV, GENKEY and ENCRYPT raise no fault. -/
def Obligations.SixCommandsNeverFault : Prop :=
  ∀ (s t : State) (r : Run), s.Inv → s.running = some r →
    r.op ∈ [Instr.primality, .primegen, .gcd, .modinv, .genkey, .encrypt] →
    exec r.op s = .next t → t.fatal = false

/-- Rules R83, R92: a move of a command depends on its latched operands, its working state and the free values alone:
the same command in two states gives the same working state, the same `STATUS` and the same results. Where MODINV or
DECRYPT finds no inverse the equal results, and the equal counts of free values, rest on the model's shared numbering
of the free values (log entry 2): rule R66 gives no such law. -/
def Obligations.CommandsAreIndependent : Prop :=
  ∀ (s u t v : State) (r : Run), s.Inv → u.Inv → s.running = some r → u.running = some r → s.anys = u.anys →
    exec r.op s = .next t → exec r.op u = .next v →
    t.running = v.running ∧ t.statusWord = v.statusWord ∧ t.anys = v.anys ∧
    (t.doneFlag = true → ∀ x ∈ writesOf r.op, t.readReg x = v.readReg x)

/-- Rule R44: `wait` reads `STATUS` once a turn (a turn is the model's: log entry 4), and ends at the first read with
`BUSY = 0`. -/
def Obligations.WaitPollsUntilNotBusy : Prop :=
  ∀ (s : State) (rest : List Line), s.nextAgent = .host → s.script = .wait :: rest →
    (s.busy = true → step s = .next { s with
      schedule := s.schedule.tail, reads := s.reads ++ [⟨4#3, s.statusWord⟩] }) ∧
    (s.busy = false → step s = .next { s with
      schedule := s.schedule.tail, script := rest, reads := s.reads ++ [⟨4#3, s.statusWord⟩] })

/-- Rules R23, R57, R116: the random source answers the one outstanding draw, with any value; with no answer the core
waits; an answer with no request outstanding has no step (log entries 5 and 10). -/
def Obligations.SourceAnswersTheOutstandingDraw : Prop :=
  ∀ s : State, s.nextAgent = .source →
    (∀ r lo hi, s.running = some r → r.draw = .requested lo hi →
      (∀ v rest, s.answers = v :: rest → step s = .next { s with
        schedule := s.schedule.tail, answers := rest, draws := s.draws ++ [⟨lo, hi, v⟩],
        running := some { r with draw := .answered v } }) ∧
      (s.answers = [] → step s = .next { s with schedule := s.schedule.tail })) ∧
    (s.rngPort = none → step s = .refused .answerWithoutRequest)

/-- Rule R44: a `wr` line with a bound script variable writes the variable's value; the latest binding counts where there
are several (log entry 11). -/
def Obligations.BoundVariableIsWritten : Prop :=
  ∀ (s : State) (r : Reg) (n : Nat) (v : Word) (newer older : List (Nat × Word)) (rest : List Line),
    s.nextAgent = .host → s.script = .wr r (.name n) :: rest → s.vars = newer ++ (n, v) :: older →
    (∀ b ∈ newer, b.1 ≠ n) →
    step s = .next (regWrite r.index v { s with schedule := s.schedule.tail, script := rest })

/-- A `wr` line with a script variable that nothing has bound stops with the fault `unboundScriptName`, and it is the
only line that stops with a fault: rule R44 gives such a script no meaning, and the fault is the model's choice (log entry
11). -/
def Obligations.UnboundVariableStopsTheScript : Prop :=
  (∀ (s : State) (r : Reg) (n : Nat) (rest : List Line), s.nextAgent = .host →
    s.script = .wr r (.name n) :: rest → (∀ b ∈ s.vars, b.1 ≠ n) → step s = .fault .unboundScriptName) ∧
  (∀ (s : State) (e : Fault), step s = .fault e → e = .unboundScriptName ∧ s.nextAgent = .host ∧
    ∃ r n rest, s.script = .wr r (.name n) :: rest ∧ ∀ b ∈ s.vars, b.1 ≠ n)

/-- Rules R25, R102: in every state the outputs `busy`, `done`, `fatal` and `fault_code` are the fields of `STATUS`, as a
read of it returns them. -/
def Obligations.OutputsAreStatusFields : Prop :=
  ∀ s : State,
    s.outputs = ⟨s.busy, s.doneFlag, s.fatal, s.fault⟩ ∧
    s.outputs.busy = (s.regRead 4#3).getLsbD 0 ∧ s.outputs.doneLevel = (s.regRead 4#3).getLsbD 1 ∧
    s.outputs.fatal = (s.regRead 4#3).getLsbD 2 ∧ s.outputs.faultCode = (s.regRead 4#3).extractLsb' 8 8
end

