-- ==== Sys2Proof/Laws/Arith.lean ====
section
/-! SUPPORT. One spec lemma for each arithmetic function the commands share: the 128-bit products are exact, `gcd` is
the greatest common divisor, `lcm` and `modinv` and `modexp` answer which of their cases. -/

namespace Sys2Proof.Machine

@[simp] theorem zext128_toNat (v : Word) : (zext128 v).toNat = v.toNat := by
  simp only [zext128, BitVec.toNat_setWidth]
  exact Nat.mod_eq_of_lt (by omega)

@[simp] theorem trunc64_toNat (v : Wide) : (trunc64 v).toNat = v.toNat % 2 ^ 64 := by
  simp [trunc64, BitVec.toNat_setWidth]

/-- A product of two 64-bit words fits 128 bits. -/
theorem wideProduct_toNat (x y : Word) : (zext128 x * zext128 y).toNat = x.toNat * y.toNat := by
  rw [BitVec.toNat_mul, zext128_toNat, zext128_toNat]
  refine Nat.mod_eq_of_lt ?_
  calc x.toNat * y.toNat < 2 ^ 64 * 2 ^ 64 := Nat.mul_lt_mul'' x.isLt y.isLt
    _ = 2 ^ 128 := by norm_num

theorem lcmProduct_toNat (x y : Word) : (lcmProduct x y).toNat = x.toNat * y.toNat := wideProduct_toNat x y

theorem word_ne_zero_iff (x : Word) : x ≠ 0#64 ↔ x.toNat ≠ 0 := by
  rw [ne_eq, ← BitVec.toNat_inj]; rfl

theorem word_eq_zero_iff (x : Word) : x = 0#64 ↔ x.toNat = 0 := by
  rw [← BitVec.toNat_inj]; rfl

/-- Multiplication modulo `m` is exact (rule R49). -/
theorem mulMod_toNat (x y m : Word) (hm : m ≠ 0#64) :
    (mulMod x y m).toNat = x.toNat * y.toNat % m.toNat := by
  have hpos : 0 < m.toNat := Nat.pos_of_ne_zero ((word_ne_zero_iff m).1 hm)
  simp only [mulMod, trunc64_toNat, BitVec.toNat_umod, wideProduct_toNat, zext128_toNat]
  exact Nat.mod_eq_of_lt (lt_trans (Nat.mod_lt _ hpos) m.isLt)

/-- The remainder loop computes the greatest common divisor when its fuel exceeds the second operand (rule R58). -/
theorem gcdLoop_toNat : ∀ (fuel : Nat) (x y : Word), y.toNat < fuel →
    (gcdLoop fuel x y).toNat = Nat.gcd x.toNat y.toNat := by
  intro fuel
  induction fuel with
  | zero => intro x y h; omega
  | succ n ih =>
    intro x y h
    by_cases hy : y = 0#64
    · simp [gcdLoop, hy]
    · have hpos : 0 < y.toNat := Nat.pos_of_ne_zero ((word_ne_zero_iff y).1 hy)
      have hlt : (x % y).toNat < y.toNat := by
        rw [BitVec.toNat_umod]; exact Nat.mod_lt _ hpos
      rw [gcdLoop, if_neg hy, ih y (x % y) (by omega), BitVec.toNat_umod, Nat.gcd_comm y.toNat,
        ← Nat.gcd_rec, Nat.gcd_comm]

/-- `gcd` is the greatest common divisor, also with a zero operand (rule R58). -/
theorem gcdWord_toNat (x y : Word) : (gcdWord x y).toNat = Nat.gcd x.toNat y.toNat := by
  unfold gcdWord
  split
  · rw [gcdLoop_toNat _ _ _ (Nat.lt_succ_self _), Nat.gcd_comm]
  · exact gcdLoop_toNat _ _ _ (Nat.lt_succ_self _)

theorem lcmOverflows_eq (x y : Word) : lcmOverflows x y = decide (2 ^ 64 ≤ x.toNat * y.toNat) := by
  simp [lcmOverflows, lcmProduct_toNat]

/-- `lcm` faults exactly when both operands are 0 (rules R60, R96). -/
theorem lcmWord_divZero_iff (x y : Word) : lcmWord x y = .divZero ↔ x = 0#64 ∧ y = 0#64 := by
  have h : gcdWord x y = 0#64 ↔ x = 0#64 ∧ y = 0#64 := by
    rw [word_eq_zero_iff, gcdWord_toNat, Nat.gcd_eq_zero_iff, ← word_eq_zero_iff, ← word_eq_zero_iff]
  unfold lcmWord
  split <;> simp_all

/-- `lcm` where it does not fault: the wrapped product divided by the gcd, and `ovf` (rule R60). -/
theorem lcmWord_value (x y : Word) (h : x ≠ 0#64 ∨ y ≠ 0#64) :
    lcmWord x y = .value (BitVec.ofNat 64 (x.toNat * y.toNat % 2 ^ 64 / Nat.gcd x.toNat y.toNat))
      (decide (2 ^ 64 ≤ x.toNat * y.toNat)) := by
  have hg : gcdWord x y ≠ 0#64 := by
    rw [word_ne_zero_iff, gcdWord_toNat, ne_eq, Nat.gcd_eq_zero_iff]
    rw [word_ne_zero_iff, word_ne_zero_iff] at h
    omega
  have hv : trunc64 (lcmProduct x y) / gcdWord x y
      = BitVec.ofNat 64 (x.toNat * y.toNat % 2 ^ 64 / Nat.gcd x.toNat y.toNat) := by
    apply BitVec.eq_of_toNat_eq
    rw [BitVec.toNat_udiv, trunc64_toNat, lcmProduct_toNat, gcdWord_toNat, BitVec.toNat_ofNat]
    refine (Nat.mod_eq_of_lt ?_).symm
    exact lt_of_le_of_lt (Nat.div_le_self _ _) (Nat.mod_lt _ (by norm_num))
  rw [lcmWord, if_neg hg, hv, lcmOverflows_eq]

/-- `modexp` faults exactly on a zero modulus (rules R47, R95). -/
theorem modexp_eq_none_iff (x y m : Word) : modexp x y m = none ↔ m = 0#64 := by
  unfold modexp
  split
  · simp [*]
  · split <;> simp [*]

/-- The existence check of `modinv` on integers (rules R18, R64). -/
theorem hasNoInverse_iff (a m : Word) :
    hasNoInverse a m = true ↔ m.toNat = 0 ∨ (2 ≤ m.toNat ∧ Nat.gcd a.toNat m.toNat ≠ 1) := by
  have h1 : m = 1#64 ↔ m.toNat = 1 := by rw [← BitVec.toNat_inj]; rfl
  have hg : gcdWord a m = 1#64 ↔ Nat.gcd a.toNat m.toNat = 1 := by
    rw [← BitVec.toNat_inj, gcdWord_toNat]; rfl
  unfold hasNoInverse
  by_cases hm1 : m = 1#64
  · have := h1.1 hm1
    simp [hm1]
  · have hm1' := mt h1.2 hm1
    have h0 : m = 0#64 ↔ m.toNat = 0 := word_eq_zero_iff m
    simp only [hm1, if_false, Bool.or_eq_true, decide_eq_true_eq, h0, ne_eq, hg]
    constructor
    · rintro (h | h)
      · exact .inl h
      · by_cases hz : m.toNat = 0
        · exact .inl hz
        · exact .inr ⟨by omega, h⟩
    · rintro (h | ⟨_, h⟩)
      · exact .inl h
      · exact .inr h

/-- `modinv` has a value exactly where an inverse exists (rule R64). -/
theorem modinv_eq_none_iff (a m : Word) :
    modinv a m = none ↔ m.toNat = 0 ∨ (2 ≤ m.toNat ∧ Nat.gcd a.toNat m.toNat ≠ 1) := by
  rw [← hasNoInverse_iff]
  unfold modinv hasNoInverse
  by_cases h : m = 1#64
  · simp [h]
  · simp only [h, if_false, ite_eq_left_iff, reduceCtorEq, imp_false, not_not]

end Sys2Proof.Machine
end

