-- ==== Sys2Proof/Laws/State.lean ====
section
/-! SUPPORT. What each named update of the state leaves in each field: one lemma per field per update, each true by
definition, so that no later proof unfolds a record update. -/

namespace Sys2Proof.Machine

@[simp] theorem raiseFatal_opa (code : FaultCode) (s : State) : (raiseFatal code s).opa = s.opa := rfl
@[simp] theorem raiseFatal_opb (code : FaultCode) (s : State) : (raiseFatal code s).opb = s.opb := rfl
@[simp] theorem raiseFatal_opc (code : FaultCode) (s : State) : (raiseFatal code s).opc = s.opc := rfl
@[simp] theorem raiseFatal_res0 (code : FaultCode) (s : State) : (raiseFatal code s).res0 = s.res0 := rfl
@[simp] theorem raiseFatal_res1 (code : FaultCode) (s : State) : (raiseFatal code s).res1 = s.res1 := rfl
@[simp] theorem raiseFatal_res2 (code : FaultCode) (s : State) : (raiseFatal code s).res2 = s.res2 := rfl
@[simp] theorem raiseFatal_busy (code : FaultCode) (s : State) : (raiseFatal code s).busy = false := rfl
@[simp] theorem raiseFatal_doneFlag (code : FaultCode) (s : State) : (raiseFatal code s).doneFlag = false := rfl
@[simp] theorem raiseFatal_fatal (code : FaultCode) (s : State) : (raiseFatal code s).fatal = true := rfl
@[simp] theorem raiseFatal_ovf (code : FaultCode) (s : State) : (raiseFatal code s).ovf = false := rfl
@[simp] theorem raiseFatal_noinv (code : FaultCode) (s : State) : (raiseFatal code s).noinv = false := rfl
@[simp] theorem raiseFatal_fault (code : FaultCode) (s : State) : (raiseFatal code s).fault = code.code := rfl
@[simp] theorem raiseFatal_running (code : FaultCode) (s : State) : (raiseFatal code s).running = none := rfl
@[simp] theorem raiseFatal_script (code : FaultCode) (s : State) : (raiseFatal code s).script = s.script := rfl
@[simp] theorem raiseFatal_vars (code : FaultCode) (s : State) : (raiseFatal code s).vars = s.vars := rfl
@[simp] theorem raiseFatal_answers (code : FaultCode) (s : State) : (raiseFatal code s).answers = s.answers := rfl
@[simp] theorem raiseFatal_schedule (code : FaultCode) (s : State) : (raiseFatal code s).schedule = s.schedule := rfl
@[simp] theorem raiseFatal_draws (code : FaultCode) (s : State) : (raiseFatal code s).draws = s.draws := rfl
@[simp] theorem raiseFatal_infos (code : FaultCode) (s : State) : (raiseFatal code s).infos = s.infos := rfl
@[simp] theorem raiseFatal_reads (code : FaultCode) (s : State) : (raiseFatal code s).reads = s.reads := rfl
@[simp] theorem raiseFatal_anys (code : FaultCode) (s : State) : (raiseFatal code s).anys = s.anys := rfl

@[simp] theorem resetEdge_opa (s : State) : (resetEdge s).opa = Config.anyU64 s.anys := rfl
@[simp] theorem resetEdge_opb (s : State) : (resetEdge s).opb = Config.anyU64 (s.anys + 1) := rfl
@[simp] theorem resetEdge_opc (s : State) : (resetEdge s).opc = Config.anyU64 (s.anys + 2) := rfl
@[simp] theorem resetEdge_res0 (s : State) : (resetEdge s).res0 = Config.anyU64 (s.anys + 3) := rfl
@[simp] theorem resetEdge_res1 (s : State) : (resetEdge s).res1 = Config.anyU64 (s.anys + 4) := rfl
@[simp] theorem resetEdge_res2 (s : State) : (resetEdge s).res2 = Config.anyU64 (s.anys + 5) := rfl
@[simp] theorem resetEdge_busy (s : State) : (resetEdge s).busy = false := rfl
@[simp] theorem resetEdge_doneFlag (s : State) : (resetEdge s).doneFlag = false := rfl
@[simp] theorem resetEdge_fatal (s : State) : (resetEdge s).fatal = false := rfl
@[simp] theorem resetEdge_ovf (s : State) : (resetEdge s).ovf = false := rfl
@[simp] theorem resetEdge_noinv (s : State) : (resetEdge s).noinv = false := rfl
@[simp] theorem resetEdge_fault (s : State) : (resetEdge s).fault = 0x00#8 := rfl
@[simp] theorem resetEdge_running (s : State) : (resetEdge s).running = none := rfl
@[simp] theorem resetEdge_script (s : State) : (resetEdge s).script = s.script := rfl
@[simp] theorem resetEdge_vars (s : State) : (resetEdge s).vars = s.vars := rfl
@[simp] theorem resetEdge_answers (s : State) : (resetEdge s).answers = s.answers := rfl
@[simp] theorem resetEdge_schedule (s : State) : (resetEdge s).schedule = s.schedule := rfl
@[simp] theorem resetEdge_draws (s : State) : (resetEdge s).draws = s.draws := rfl
@[simp] theorem resetEdge_infos (s : State) : (resetEdge s).infos = s.infos := rfl
@[simp] theorem resetEdge_reads (s : State) : (resetEdge s).reads = s.reads := rfl
@[simp] theorem resetEdge_anys (s : State) : (resetEdge s).anys = s.anys + 6 := rfl

@[simp] theorem accept_opa (op : Instr) (s : State) : (accept op s).opa = s.opa := rfl
@[simp] theorem accept_opb (op : Instr) (s : State) : (accept op s).opb = s.opb := rfl
@[simp] theorem accept_opc (op : Instr) (s : State) : (accept op s).opc = s.opc := rfl
@[simp] theorem accept_res0 (op : Instr) (s : State) : (accept op s).res0 = s.res0 := rfl
@[simp] theorem accept_res1 (op : Instr) (s : State) : (accept op s).res1 = s.res1 := rfl
@[simp] theorem accept_res2 (op : Instr) (s : State) : (accept op s).res2 = s.res2 := rfl
@[simp] theorem accept_busy (op : Instr) (s : State) : (accept op s).busy = true := rfl
@[simp] theorem accept_doneFlag (op : Instr) (s : State) : (accept op s).doneFlag = false := rfl
@[simp] theorem accept_fatal (op : Instr) (s : State) : (accept op s).fatal = s.fatal := rfl
@[simp] theorem accept_ovf (op : Instr) (s : State) : (accept op s).ovf = false := rfl
@[simp] theorem accept_noinv (op : Instr) (s : State) : (accept op s).noinv = false := rfl
@[simp] theorem accept_fault (op : Instr) (s : State) : (accept op s).fault = s.fault := rfl
@[simp] theorem accept_running (op : Instr) (s : State) : (accept op s).running = some (s.latch op) := rfl
@[simp] theorem accept_script (op : Instr) (s : State) : (accept op s).script = s.script := rfl
@[simp] theorem accept_vars (op : Instr) (s : State) : (accept op s).vars = s.vars := rfl
@[simp] theorem accept_answers (op : Instr) (s : State) : (accept op s).answers = s.answers := rfl
@[simp] theorem accept_schedule (op : Instr) (s : State) : (accept op s).schedule = s.schedule := rfl
@[simp] theorem accept_draws (op : Instr) (s : State) : (accept op s).draws = s.draws := rfl
@[simp] theorem accept_infos (op : Instr) (s : State) : (accept op s).infos = s.infos := rfl
@[simp] theorem accept_reads (op : Instr) (s : State) : (accept op s).reads = s.reads := rfl
@[simp] theorem accept_anys (op : Instr) (s : State) : (accept op s).anys = s.anys := rfl

@[simp] theorem complete_opa (s : State) (r : Run) (out : Results) : (complete s r out).opa = s.opa := rfl
@[simp] theorem complete_opb (s : State) (r : Run) (out : Results) : (complete s r out).opb = s.opb := rfl
@[simp] theorem complete_opc (s : State) (r : Run) (out : Results) : (complete s r out).opc = s.opc := rfl
@[simp] theorem complete_res0 (s : State) (r : Run) (out : Results) : (complete s r out).res0 = out.res0 := rfl
@[simp] theorem complete_res1 (s : State) (r : Run) (out : Results) : (complete s r out).res1 = out.res1.getD s.res1 := rfl
@[simp] theorem complete_res2 (s : State) (r : Run) (out : Results) : (complete s r out).res2 = out.res2.getD s.res2 := rfl
@[simp] theorem complete_busy (s : State) (r : Run) (out : Results) : (complete s r out).busy = false := rfl
@[simp] theorem complete_doneFlag (s : State) (r : Run) (out : Results) : (complete s r out).doneFlag = true := rfl
@[simp] theorem complete_fatal (s : State) (r : Run) (out : Results) : (complete s r out).fatal = s.fatal := rfl
@[simp] theorem complete_ovf (s : State) (r : Run) (out : Results) : (complete s r out).ovf = r.accOvf := rfl
@[simp] theorem complete_noinv (s : State) (r : Run) (out : Results) : (complete s r out).noinv = r.accNoinv := rfl
@[simp] theorem complete_fault (s : State) (r : Run) (out : Results) : (complete s r out).fault = s.fault := rfl
@[simp] theorem complete_running (s : State) (r : Run) (out : Results) : (complete s r out).running = none := rfl
@[simp] theorem complete_script (s : State) (r : Run) (out : Results) : (complete s r out).script = s.script := rfl
@[simp] theorem complete_vars (s : State) (r : Run) (out : Results) : (complete s r out).vars = s.vars := rfl
@[simp] theorem complete_answers (s : State) (r : Run) (out : Results) : (complete s r out).answers = s.answers := rfl
@[simp] theorem complete_schedule (s : State) (r : Run) (out : Results) : (complete s r out).schedule = s.schedule := rfl
@[simp] theorem complete_draws (s : State) (r : Run) (out : Results) : (complete s r out).draws = s.draws := rfl
@[simp] theorem complete_infos (s : State) (r : Run) (out : Results) : (complete s r out).infos = s.infos := rfl
@[simp] theorem complete_reads (s : State) (r : Run) (out : Results) : (complete s r out).reads = s.reads := rfl
@[simp] theorem complete_anys (s : State) (r : Run) (out : Results) : (complete s r out).anys = s.anys := rfl

@[simp] theorem goOn_opa (s : State) (r : Run) : (goOn s r).opa = s.opa := rfl
@[simp] theorem goOn_opb (s : State) (r : Run) : (goOn s r).opb = s.opb := rfl
@[simp] theorem goOn_opc (s : State) (r : Run) : (goOn s r).opc = s.opc := rfl
@[simp] theorem goOn_res0 (s : State) (r : Run) : (goOn s r).res0 = s.res0 := rfl
@[simp] theorem goOn_res1 (s : State) (r : Run) : (goOn s r).res1 = s.res1 := rfl
@[simp] theorem goOn_res2 (s : State) (r : Run) : (goOn s r).res2 = s.res2 := rfl
@[simp] theorem goOn_busy (s : State) (r : Run) : (goOn s r).busy = s.busy := rfl
@[simp] theorem goOn_doneFlag (s : State) (r : Run) : (goOn s r).doneFlag = s.doneFlag := rfl
@[simp] theorem goOn_fatal (s : State) (r : Run) : (goOn s r).fatal = s.fatal := rfl
@[simp] theorem goOn_ovf (s : State) (r : Run) : (goOn s r).ovf = s.ovf := rfl
@[simp] theorem goOn_noinv (s : State) (r : Run) : (goOn s r).noinv = s.noinv := rfl
@[simp] theorem goOn_fault (s : State) (r : Run) : (goOn s r).fault = s.fault := rfl
@[simp] theorem goOn_running (s : State) (r : Run) : (goOn s r).running = some r := rfl
@[simp] theorem goOn_script (s : State) (r : Run) : (goOn s r).script = s.script := rfl
@[simp] theorem goOn_vars (s : State) (r : Run) : (goOn s r).vars = s.vars := rfl
@[simp] theorem goOn_answers (s : State) (r : Run) : (goOn s r).answers = s.answers := rfl
@[simp] theorem goOn_schedule (s : State) (r : Run) : (goOn s r).schedule = s.schedule := rfl
@[simp] theorem goOn_draws (s : State) (r : Run) : (goOn s r).draws = s.draws := rfl
@[simp] theorem goOn_infos (s : State) (r : Run) : (goOn s r).infos = s.infos := rfl
@[simp] theorem goOn_reads (s : State) (r : Run) : (goOn s r).reads = s.reads := rfl
@[simp] theorem goOn_anys (s : State) (r : Run) : (goOn s r).anys = s.anys := rfl

@[simp] theorem takeAny_opa (s : State) : (takeAny s).2.opa = s.opa := rfl
@[simp] theorem takeAny_opb (s : State) : (takeAny s).2.opb = s.opb := rfl
@[simp] theorem takeAny_opc (s : State) : (takeAny s).2.opc = s.opc := rfl
@[simp] theorem takeAny_res0 (s : State) : (takeAny s).2.res0 = s.res0 := rfl
@[simp] theorem takeAny_res1 (s : State) : (takeAny s).2.res1 = s.res1 := rfl
@[simp] theorem takeAny_res2 (s : State) : (takeAny s).2.res2 = s.res2 := rfl
@[simp] theorem takeAny_busy (s : State) : (takeAny s).2.busy = s.busy := rfl
@[simp] theorem takeAny_doneFlag (s : State) : (takeAny s).2.doneFlag = s.doneFlag := rfl
@[simp] theorem takeAny_fatal (s : State) : (takeAny s).2.fatal = s.fatal := rfl
@[simp] theorem takeAny_ovf (s : State) : (takeAny s).2.ovf = s.ovf := rfl
@[simp] theorem takeAny_noinv (s : State) : (takeAny s).2.noinv = s.noinv := rfl
@[simp] theorem takeAny_fault (s : State) : (takeAny s).2.fault = s.fault := rfl
@[simp] theorem takeAny_running (s : State) : (takeAny s).2.running = s.running := rfl
@[simp] theorem takeAny_script (s : State) : (takeAny s).2.script = s.script := rfl
@[simp] theorem takeAny_vars (s : State) : (takeAny s).2.vars = s.vars := rfl
@[simp] theorem takeAny_answers (s : State) : (takeAny s).2.answers = s.answers := rfl
@[simp] theorem takeAny_schedule (s : State) : (takeAny s).2.schedule = s.schedule := rfl
@[simp] theorem takeAny_draws (s : State) : (takeAny s).2.draws = s.draws := rfl
@[simp] theorem takeAny_infos (s : State) : (takeAny s).2.infos = s.infos := rfl
@[simp] theorem takeAny_reads (s : State) : (takeAny s).2.reads = s.reads := rfl
@[simp] theorem takeAny_anys (s : State) : (takeAny s).2.anys = s.anys + 1 := rfl

@[simp] theorem emitInfo_opa (p q n : Word) (s : State) : (emitInfo p q n s).opa = s.opa := rfl
@[simp] theorem emitInfo_opb (p q n : Word) (s : State) : (emitInfo p q n s).opb = s.opb := rfl
@[simp] theorem emitInfo_opc (p q n : Word) (s : State) : (emitInfo p q n s).opc = s.opc := rfl
@[simp] theorem emitInfo_res0 (p q n : Word) (s : State) : (emitInfo p q n s).res0 = s.res0 := rfl
@[simp] theorem emitInfo_res1 (p q n : Word) (s : State) : (emitInfo p q n s).res1 = s.res1 := rfl
@[simp] theorem emitInfo_res2 (p q n : Word) (s : State) : (emitInfo p q n s).res2 = s.res2 := rfl
@[simp] theorem emitInfo_busy (p q n : Word) (s : State) : (emitInfo p q n s).busy = s.busy := rfl
@[simp] theorem emitInfo_doneFlag (p q n : Word) (s : State) : (emitInfo p q n s).doneFlag = s.doneFlag := rfl
@[simp] theorem emitInfo_fatal (p q n : Word) (s : State) : (emitInfo p q n s).fatal = s.fatal := rfl
@[simp] theorem emitInfo_ovf (p q n : Word) (s : State) : (emitInfo p q n s).ovf = s.ovf := rfl
@[simp] theorem emitInfo_noinv (p q n : Word) (s : State) : (emitInfo p q n s).noinv = s.noinv := rfl
@[simp] theorem emitInfo_fault (p q n : Word) (s : State) : (emitInfo p q n s).fault = s.fault := rfl
@[simp] theorem emitInfo_running (p q n : Word) (s : State) : (emitInfo p q n s).running = s.running := rfl
@[simp] theorem emitInfo_script (p q n : Word) (s : State) : (emitInfo p q n s).script = s.script := rfl
@[simp] theorem emitInfo_vars (p q n : Word) (s : State) : (emitInfo p q n s).vars = s.vars := rfl
@[simp] theorem emitInfo_answers (p q n : Word) (s : State) : (emitInfo p q n s).answers = s.answers := rfl
@[simp] theorem emitInfo_schedule (p q n : Word) (s : State) : (emitInfo p q n s).schedule = s.schedule := rfl
@[simp] theorem emitInfo_draws (p q n : Word) (s : State) : (emitInfo p q n s).draws = s.draws := rfl
@[simp] theorem emitInfo_infos (p q n : Word) (s : State) : (emitInfo p q n s).infos = s.infos ++ [⟨p, q, n⟩] := rfl
@[simp] theorem emitInfo_reads (p q n : Word) (s : State) : (emitInfo p q n s).reads = s.reads := rfl
@[simp] theorem emitInfo_anys (p q n : Word) (s : State) : (emitInfo p q n s).anys = s.anys := rfl

@[simp] theorem logRead_opa (i : BitVec 3) (v : Word) (s : State) : (logRead i v s).opa = s.opa := rfl
@[simp] theorem logRead_opb (i : BitVec 3) (v : Word) (s : State) : (logRead i v s).opb = s.opb := rfl
@[simp] theorem logRead_opc (i : BitVec 3) (v : Word) (s : State) : (logRead i v s).opc = s.opc := rfl
@[simp] theorem logRead_res0 (i : BitVec 3) (v : Word) (s : State) : (logRead i v s).res0 = s.res0 := rfl
@[simp] theorem logRead_res1 (i : BitVec 3) (v : Word) (s : State) : (logRead i v s).res1 = s.res1 := rfl
@[simp] theorem logRead_res2 (i : BitVec 3) (v : Word) (s : State) : (logRead i v s).res2 = s.res2 := rfl
@[simp] theorem logRead_busy (i : BitVec 3) (v : Word) (s : State) : (logRead i v s).busy = s.busy := rfl
@[simp] theorem logRead_doneFlag (i : BitVec 3) (v : Word) (s : State) : (logRead i v s).doneFlag = s.doneFlag := rfl
@[simp] theorem logRead_fatal (i : BitVec 3) (v : Word) (s : State) : (logRead i v s).fatal = s.fatal := rfl
@[simp] theorem logRead_ovf (i : BitVec 3) (v : Word) (s : State) : (logRead i v s).ovf = s.ovf := rfl
@[simp] theorem logRead_noinv (i : BitVec 3) (v : Word) (s : State) : (logRead i v s).noinv = s.noinv := rfl
@[simp] theorem logRead_fault (i : BitVec 3) (v : Word) (s : State) : (logRead i v s).fault = s.fault := rfl
@[simp] theorem logRead_running (i : BitVec 3) (v : Word) (s : State) : (logRead i v s).running = s.running := rfl
@[simp] theorem logRead_script (i : BitVec 3) (v : Word) (s : State) : (logRead i v s).script = s.script := rfl
@[simp] theorem logRead_vars (i : BitVec 3) (v : Word) (s : State) : (logRead i v s).vars = s.vars := rfl
@[simp] theorem logRead_answers (i : BitVec 3) (v : Word) (s : State) : (logRead i v s).answers = s.answers := rfl
@[simp] theorem logRead_schedule (i : BitVec 3) (v : Word) (s : State) : (logRead i v s).schedule = s.schedule := rfl
@[simp] theorem logRead_draws (i : BitVec 3) (v : Word) (s : State) : (logRead i v s).draws = s.draws := rfl
@[simp] theorem logRead_infos (i : BitVec 3) (v : Word) (s : State) : (logRead i v s).infos = s.infos := rfl
@[simp] theorem logRead_reads (i : BitVec 3) (v : Word) (s : State) : (logRead i v s).reads = s.reads ++ [⟨i, v⟩] := rfl
@[simp] theorem logRead_anys (i : BitVec 3) (v : Word) (s : State) : (logRead i v s).anys = s.anys := rfl

@[simp] theorem bindVar_opa (n : Nat) (v : Word) (s : State) : (bindVar n v s).opa = s.opa := rfl
@[simp] theorem bindVar_opb (n : Nat) (v : Word) (s : State) : (bindVar n v s).opb = s.opb := rfl
@[simp] theorem bindVar_opc (n : Nat) (v : Word) (s : State) : (bindVar n v s).opc = s.opc := rfl
@[simp] theorem bindVar_res0 (n : Nat) (v : Word) (s : State) : (bindVar n v s).res0 = s.res0 := rfl
@[simp] theorem bindVar_res1 (n : Nat) (v : Word) (s : State) : (bindVar n v s).res1 = s.res1 := rfl
@[simp] theorem bindVar_res2 (n : Nat) (v : Word) (s : State) : (bindVar n v s).res2 = s.res2 := rfl
@[simp] theorem bindVar_busy (n : Nat) (v : Word) (s : State) : (bindVar n v s).busy = s.busy := rfl
@[simp] theorem bindVar_doneFlag (n : Nat) (v : Word) (s : State) : (bindVar n v s).doneFlag = s.doneFlag := rfl
@[simp] theorem bindVar_fatal (n : Nat) (v : Word) (s : State) : (bindVar n v s).fatal = s.fatal := rfl
@[simp] theorem bindVar_ovf (n : Nat) (v : Word) (s : State) : (bindVar n v s).ovf = s.ovf := rfl
@[simp] theorem bindVar_noinv (n : Nat) (v : Word) (s : State) : (bindVar n v s).noinv = s.noinv := rfl
@[simp] theorem bindVar_fault (n : Nat) (v : Word) (s : State) : (bindVar n v s).fault = s.fault := rfl
@[simp] theorem bindVar_running (n : Nat) (v : Word) (s : State) : (bindVar n v s).running = s.running := rfl
@[simp] theorem bindVar_script (n : Nat) (v : Word) (s : State) : (bindVar n v s).script = s.script := rfl
@[simp] theorem bindVar_vars (n : Nat) (v : Word) (s : State) : (bindVar n v s).vars = (n, v) :: s.vars := rfl
@[simp] theorem bindVar_answers (n : Nat) (v : Word) (s : State) : (bindVar n v s).answers = s.answers := rfl
@[simp] theorem bindVar_schedule (n : Nat) (v : Word) (s : State) : (bindVar n v s).schedule = s.schedule := rfl
@[simp] theorem bindVar_draws (n : Nat) (v : Word) (s : State) : (bindVar n v s).draws = s.draws := rfl
@[simp] theorem bindVar_infos (n : Nat) (v : Word) (s : State) : (bindVar n v s).infos = s.infos := rfl
@[simp] theorem bindVar_reads (n : Nat) (v : Word) (s : State) : (bindVar n v s).reads = s.reads := rfl
@[simp] theorem bindVar_anys (n : Nat) (v : Word) (s : State) : (bindVar n v s).anys = s.anys := rfl

@[simp] theorem dropLine_opa (s : State) : (dropLine s).opa = s.opa := rfl
@[simp] theorem dropLine_opb (s : State) : (dropLine s).opb = s.opb := rfl
@[simp] theorem dropLine_opc (s : State) : (dropLine s).opc = s.opc := rfl
@[simp] theorem dropLine_res0 (s : State) : (dropLine s).res0 = s.res0 := rfl
@[simp] theorem dropLine_res1 (s : State) : (dropLine s).res1 = s.res1 := rfl
@[simp] theorem dropLine_res2 (s : State) : (dropLine s).res2 = s.res2 := rfl
@[simp] theorem dropLine_busy (s : State) : (dropLine s).busy = s.busy := rfl
@[simp] theorem dropLine_doneFlag (s : State) : (dropLine s).doneFlag = s.doneFlag := rfl
@[simp] theorem dropLine_fatal (s : State) : (dropLine s).fatal = s.fatal := rfl
@[simp] theorem dropLine_ovf (s : State) : (dropLine s).ovf = s.ovf := rfl
@[simp] theorem dropLine_noinv (s : State) : (dropLine s).noinv = s.noinv := rfl
@[simp] theorem dropLine_fault (s : State) : (dropLine s).fault = s.fault := rfl
@[simp] theorem dropLine_running (s : State) : (dropLine s).running = s.running := rfl
@[simp] theorem dropLine_script (s : State) : (dropLine s).script = s.script.tail := rfl
@[simp] theorem dropLine_vars (s : State) : (dropLine s).vars = s.vars := rfl
@[simp] theorem dropLine_answers (s : State) : (dropLine s).answers = s.answers := rfl
@[simp] theorem dropLine_schedule (s : State) : (dropLine s).schedule = s.schedule := rfl
@[simp] theorem dropLine_draws (s : State) : (dropLine s).draws = s.draws := rfl
@[simp] theorem dropLine_infos (s : State) : (dropLine s).infos = s.infos := rfl
@[simp] theorem dropLine_reads (s : State) : (dropLine s).reads = s.reads := rfl
@[simp] theorem dropLine_anys (s : State) : (dropLine s).anys = s.anys := rfl

@[simp] theorem pushLine_opa (l : Line) (s : State) : (pushLine l s).opa = s.opa := rfl
@[simp] theorem pushLine_opb (l : Line) (s : State) : (pushLine l s).opb = s.opb := rfl
@[simp] theorem pushLine_opc (l : Line) (s : State) : (pushLine l s).opc = s.opc := rfl
@[simp] theorem pushLine_res0 (l : Line) (s : State) : (pushLine l s).res0 = s.res0 := rfl
@[simp] theorem pushLine_res1 (l : Line) (s : State) : (pushLine l s).res1 = s.res1 := rfl
@[simp] theorem pushLine_res2 (l : Line) (s : State) : (pushLine l s).res2 = s.res2 := rfl
@[simp] theorem pushLine_busy (l : Line) (s : State) : (pushLine l s).busy = s.busy := rfl
@[simp] theorem pushLine_doneFlag (l : Line) (s : State) : (pushLine l s).doneFlag = s.doneFlag := rfl
@[simp] theorem pushLine_fatal (l : Line) (s : State) : (pushLine l s).fatal = s.fatal := rfl
@[simp] theorem pushLine_ovf (l : Line) (s : State) : (pushLine l s).ovf = s.ovf := rfl
@[simp] theorem pushLine_noinv (l : Line) (s : State) : (pushLine l s).noinv = s.noinv := rfl
@[simp] theorem pushLine_fault (l : Line) (s : State) : (pushLine l s).fault = s.fault := rfl
@[simp] theorem pushLine_running (l : Line) (s : State) : (pushLine l s).running = s.running := rfl
@[simp] theorem pushLine_script (l : Line) (s : State) : (pushLine l s).script = l :: s.script := rfl
@[simp] theorem pushLine_vars (l : Line) (s : State) : (pushLine l s).vars = s.vars := rfl
@[simp] theorem pushLine_answers (l : Line) (s : State) : (pushLine l s).answers = s.answers := rfl
@[simp] theorem pushLine_schedule (l : Line) (s : State) : (pushLine l s).schedule = s.schedule := rfl
@[simp] theorem pushLine_draws (l : Line) (s : State) : (pushLine l s).draws = s.draws := rfl
@[simp] theorem pushLine_infos (l : Line) (s : State) : (pushLine l s).infos = s.infos := rfl
@[simp] theorem pushLine_reads (l : Line) (s : State) : (pushLine l s).reads = s.reads := rfl
@[simp] theorem pushLine_anys (l : Line) (s : State) : (pushLine l s).anys = s.anys := rfl

@[simp] theorem popTurn_opa (s : State) : (popTurn s).opa = s.opa := rfl
@[simp] theorem popTurn_opb (s : State) : (popTurn s).opb = s.opb := rfl
@[simp] theorem popTurn_opc (s : State) : (popTurn s).opc = s.opc := rfl
@[simp] theorem popTurn_res0 (s : State) : (popTurn s).res0 = s.res0 := rfl
@[simp] theorem popTurn_res1 (s : State) : (popTurn s).res1 = s.res1 := rfl
@[simp] theorem popTurn_res2 (s : State) : (popTurn s).res2 = s.res2 := rfl
@[simp] theorem popTurn_busy (s : State) : (popTurn s).busy = s.busy := rfl
@[simp] theorem popTurn_doneFlag (s : State) : (popTurn s).doneFlag = s.doneFlag := rfl
@[simp] theorem popTurn_fatal (s : State) : (popTurn s).fatal = s.fatal := rfl
@[simp] theorem popTurn_ovf (s : State) : (popTurn s).ovf = s.ovf := rfl
@[simp] theorem popTurn_noinv (s : State) : (popTurn s).noinv = s.noinv := rfl
@[simp] theorem popTurn_fault (s : State) : (popTurn s).fault = s.fault := rfl
@[simp] theorem popTurn_running (s : State) : (popTurn s).running = s.running := rfl
@[simp] theorem popTurn_script (s : State) : (popTurn s).script = s.script := rfl
@[simp] theorem popTurn_vars (s : State) : (popTurn s).vars = s.vars := rfl
@[simp] theorem popTurn_answers (s : State) : (popTurn s).answers = s.answers := rfl
@[simp] theorem popTurn_schedule (s : State) : (popTurn s).schedule = s.schedule.tail := rfl
@[simp] theorem popTurn_draws (s : State) : (popTurn s).draws = s.draws := rfl
@[simp] theorem popTurn_infos (s : State) : (popTurn s).infos = s.infos := rfl
@[simp] theorem popTurn_reads (s : State) : (popTurn s).reads = s.reads := rfl
@[simp] theorem popTurn_anys (s : State) : (popTurn s).anys = s.anys := rfl

@[simp] theorem deliver_opa (r : Run) (lo hi v : Word) (rest : List Word) (s : State) : (deliver r lo hi v rest s).opa = s.opa := rfl
@[simp] theorem deliver_opb (r : Run) (lo hi v : Word) (rest : List Word) (s : State) : (deliver r lo hi v rest s).opb = s.opb := rfl
@[simp] theorem deliver_opc (r : Run) (lo hi v : Word) (rest : List Word) (s : State) : (deliver r lo hi v rest s).opc = s.opc := rfl
@[simp] theorem deliver_res0 (r : Run) (lo hi v : Word) (rest : List Word) (s : State) : (deliver r lo hi v rest s).res0 = s.res0 := rfl
@[simp] theorem deliver_res1 (r : Run) (lo hi v : Word) (rest : List Word) (s : State) : (deliver r lo hi v rest s).res1 = s.res1 := rfl
@[simp] theorem deliver_res2 (r : Run) (lo hi v : Word) (rest : List Word) (s : State) : (deliver r lo hi v rest s).res2 = s.res2 := rfl
@[simp] theorem deliver_busy (r : Run) (lo hi v : Word) (rest : List Word) (s : State) : (deliver r lo hi v rest s).busy = s.busy := rfl
@[simp] theorem deliver_doneFlag (r : Run) (lo hi v : Word) (rest : List Word) (s : State) : (deliver r lo hi v rest s).doneFlag = s.doneFlag := rfl
@[simp] theorem deliver_fatal (r : Run) (lo hi v : Word) (rest : List Word) (s : State) : (deliver r lo hi v rest s).fatal = s.fatal := rfl
@[simp] theorem deliver_ovf (r : Run) (lo hi v : Word) (rest : List Word) (s : State) : (deliver r lo hi v rest s).ovf = s.ovf := rfl
@[simp] theorem deliver_noinv (r : Run) (lo hi v : Word) (rest : List Word) (s : State) : (deliver r lo hi v rest s).noinv = s.noinv := rfl
@[simp] theorem deliver_fault (r : Run) (lo hi v : Word) (rest : List Word) (s : State) : (deliver r lo hi v rest s).fault = s.fault := rfl
@[simp] theorem deliver_running (r : Run) (lo hi v : Word) (rest : List Word) (s : State) : (deliver r lo hi v rest s).running = some { r with draw := .answered v } := rfl
@[simp] theorem deliver_script (r : Run) (lo hi v : Word) (rest : List Word) (s : State) : (deliver r lo hi v rest s).script = s.script := rfl
@[simp] theorem deliver_vars (r : Run) (lo hi v : Word) (rest : List Word) (s : State) : (deliver r lo hi v rest s).vars = s.vars := rfl
@[simp] theorem deliver_answers (r : Run) (lo hi v : Word) (rest : List Word) (s : State) : (deliver r lo hi v rest s).answers = rest := rfl
@[simp] theorem deliver_schedule (r : Run) (lo hi v : Word) (rest : List Word) (s : State) : (deliver r lo hi v rest s).schedule = s.schedule := rfl
@[simp] theorem deliver_draws (r : Run) (lo hi v : Word) (rest : List Word) (s : State) : (deliver r lo hi v rest s).draws = s.draws ++ [⟨lo, hi, v⟩] := rfl
@[simp] theorem deliver_infos (r : Run) (lo hi v : Word) (rest : List Word) (s : State) : (deliver r lo hi v rest s).infos = s.infos := rfl
@[simp] theorem deliver_reads (r : Run) (lo hi v : Word) (rest : List Word) (s : State) : (deliver r lo hi v rest s).reads = s.reads := rfl
@[simp] theorem deliver_anys (r : Run) (lo hi v : Word) (rest : List Word) (s : State) : (deliver r lo hi v rest s).anys = s.anys := rfl

@[simp] theorem finishedWith_opa (s : State) (x y z : Word) (o i : Bool) : (finishedWith s x y z o i).opa = s.opa := rfl
@[simp] theorem finishedWith_opb (s : State) (x y z : Word) (o i : Bool) : (finishedWith s x y z o i).opb = s.opb := rfl
@[simp] theorem finishedWith_opc (s : State) (x y z : Word) (o i : Bool) : (finishedWith s x y z o i).opc = s.opc := rfl
@[simp] theorem finishedWith_res0 (s : State) (x y z : Word) (o i : Bool) : (finishedWith s x y z o i).res0 = x := rfl
@[simp] theorem finishedWith_res1 (s : State) (x y z : Word) (o i : Bool) : (finishedWith s x y z o i).res1 = y := rfl
@[simp] theorem finishedWith_res2 (s : State) (x y z : Word) (o i : Bool) : (finishedWith s x y z o i).res2 = z := rfl
@[simp] theorem finishedWith_busy (s : State) (x y z : Word) (o i : Bool) : (finishedWith s x y z o i).busy = false := rfl
@[simp] theorem finishedWith_doneFlag (s : State) (x y z : Word) (o i : Bool) : (finishedWith s x y z o i).doneFlag = true := rfl
@[simp] theorem finishedWith_fatal (s : State) (x y z : Word) (o i : Bool) : (finishedWith s x y z o i).fatal = s.fatal := rfl
@[simp] theorem finishedWith_ovf (s : State) (x y z : Word) (o i : Bool) : (finishedWith s x y z o i).ovf = o := rfl
@[simp] theorem finishedWith_noinv (s : State) (x y z : Word) (o i : Bool) : (finishedWith s x y z o i).noinv = i := rfl
@[simp] theorem finishedWith_fault (s : State) (x y z : Word) (o i : Bool) : (finishedWith s x y z o i).fault = s.fault := rfl
@[simp] theorem finishedWith_running (s : State) (x y z : Word) (o i : Bool) : (finishedWith s x y z o i).running = none := rfl
@[simp] theorem finishedWith_script (s : State) (x y z : Word) (o i : Bool) : (finishedWith s x y z o i).script = s.script := rfl
@[simp] theorem finishedWith_vars (s : State) (x y z : Word) (o i : Bool) : (finishedWith s x y z o i).vars = s.vars := rfl
@[simp] theorem finishedWith_answers (s : State) (x y z : Word) (o i : Bool) : (finishedWith s x y z o i).answers = s.answers := rfl
@[simp] theorem finishedWith_schedule (s : State) (x y z : Word) (o i : Bool) : (finishedWith s x y z o i).schedule = s.schedule := rfl
@[simp] theorem finishedWith_draws (s : State) (x y z : Word) (o i : Bool) : (finishedWith s x y z o i).draws = s.draws := rfl
@[simp] theorem finishedWith_infos (s : State) (x y z : Word) (o i : Bool) : (finishedWith s x y z o i).infos = s.infos := rfl
@[simp] theorem finishedWith_reads (s : State) (x y z : Word) (o i : Bool) : (finishedWith s x y z o i).reads = s.reads := rfl
@[simp] theorem finishedWith_anys (s : State) (x y z : Word) (o i : Bool) : (finishedWith s x y z o i).anys = s.anys := rfl

@[simp] theorem haltedWith_opa (s : State) (c : BitVec 8) : (haltedWith s c).opa = s.opa := rfl
@[simp] theorem haltedWith_opb (s : State) (c : BitVec 8) : (haltedWith s c).opb = s.opb := rfl
@[simp] theorem haltedWith_opc (s : State) (c : BitVec 8) : (haltedWith s c).opc = s.opc := rfl
@[simp] theorem haltedWith_res0 (s : State) (c : BitVec 8) : (haltedWith s c).res0 = s.res0 := rfl
@[simp] theorem haltedWith_res1 (s : State) (c : BitVec 8) : (haltedWith s c).res1 = s.res1 := rfl
@[simp] theorem haltedWith_res2 (s : State) (c : BitVec 8) : (haltedWith s c).res2 = s.res2 := rfl
@[simp] theorem haltedWith_busy (s : State) (c : BitVec 8) : (haltedWith s c).busy = false := rfl
@[simp] theorem haltedWith_doneFlag (s : State) (c : BitVec 8) : (haltedWith s c).doneFlag = false := rfl
@[simp] theorem haltedWith_fatal (s : State) (c : BitVec 8) : (haltedWith s c).fatal = true := rfl
@[simp] theorem haltedWith_ovf (s : State) (c : BitVec 8) : (haltedWith s c).ovf = false := rfl
@[simp] theorem haltedWith_noinv (s : State) (c : BitVec 8) : (haltedWith s c).noinv = false := rfl
@[simp] theorem haltedWith_fault (s : State) (c : BitVec 8) : (haltedWith s c).fault = c := rfl
@[simp] theorem haltedWith_running (s : State) (c : BitVec 8) : (haltedWith s c).running = none := rfl
@[simp] theorem haltedWith_script (s : State) (c : BitVec 8) : (haltedWith s c).script = s.script := rfl
@[simp] theorem haltedWith_vars (s : State) (c : BitVec 8) : (haltedWith s c).vars = s.vars := rfl
@[simp] theorem haltedWith_answers (s : State) (c : BitVec 8) : (haltedWith s c).answers = s.answers := rfl
@[simp] theorem haltedWith_schedule (s : State) (c : BitVec 8) : (haltedWith s c).schedule = s.schedule := rfl
@[simp] theorem haltedWith_draws (s : State) (c : BitVec 8) : (haltedWith s c).draws = s.draws := rfl
@[simp] theorem haltedWith_infos (s : State) (c : BitVec 8) : (haltedWith s c).infos = s.infos := rfl
@[simp] theorem haltedWith_reads (s : State) (c : BitVec 8) : (haltedWith s c).reads = s.reads := rfl
@[simp] theorem haltedWith_anys (s : State) (c : BitVec 8) : (haltedWith s c).anys = s.anys := rfl

@[simp] theorem takeAny_fst (s : State) : (takeAny s).1 = Config.anyU64 s.anys := rfl

@[simp] theorem latch_eq_fresh (s : State) (op : Instr) : s.latch op = Run.fresh op s.opa s.opb s.opc := rfl

@[simp] theorem fresh_op (op : Instr) (a b c : Word) : (Run.fresh op a b c).op = op := rfl
@[simp] theorem fresh_a (op : Instr) (a b c : Word) : (Run.fresh op a b c).a = a := rfl
@[simp] theorem fresh_b (op : Instr) (a b c : Word) : (Run.fresh op a b c).b = b := rfl
@[simp] theorem fresh_c (op : Instr) (a b c : Word) : (Run.fresh op a b c).c = c := rfl
@[simp] theorem fresh_accOvf (op : Instr) (a b c : Word) : (Run.fresh op a b c).accOvf = false := rfl
@[simp] theorem fresh_accNoinv (op : Instr) (a b c : Word) : (Run.fresh op a b c).accNoinv = false := rfl
@[simp] theorem fresh_stage (op : Instr) (a b c : Word) : (Run.fresh op a b c).stage = .start := rfl
@[simp] theorem fresh_draw (op : Instr) (a b c : Word) : (Run.fresh op a b c).draw = .idle := rfl

@[simp] theorem requestDraw_op (r : Run) : (requestDraw r).op = r.op := rfl
@[simp] theorem requestDraw_a (r : Run) : (requestDraw r).a = r.a := rfl
@[simp] theorem requestDraw_b (r : Run) : (requestDraw r).b = r.b := rfl
@[simp] theorem requestDraw_c (r : Run) : (requestDraw r).c = r.c := rfl
@[simp] theorem requestDraw_accOvf (r : Run) : (requestDraw r).accOvf = r.accOvf := rfl
@[simp] theorem requestDraw_accNoinv (r : Run) : (requestDraw r).accNoinv = r.accNoinv := rfl
@[simp] theorem requestDraw_stage (r : Run) : (requestDraw r).stage = r.stage := rfl
@[simp] theorem requestDraw_draw (r : Run) :
    (requestDraw r).draw = .requested Config.primeLo Config.primeHi := rfl

@[simp] theorem results_one_res0 (v : Word) : (Results.one v).res0 = v := rfl
@[simp] theorem results_one_res1 (v : Word) : (Results.one v).res1 = none := rfl
@[simp] theorem results_one_res2 (v : Word) : (Results.one v).res2 = none := rfl
@[simp] theorem results_two_res0 (v w : Word) : (Results.two v w).res0 = v := rfl
@[simp] theorem results_two_res1 (v w : Word) : (Results.two v w).res1 = some w := rfl
@[simp] theorem results_two_res2 (v w : Word) : (Results.two v w).res2 = none := rfl
@[simp] theorem results_three_res0 (v w x : Word) : (Results.three v w x).res0 = v := rfl
@[simp] theorem results_three_res1 (v w x : Word) : (Results.three v w x).res1 = some w := rfl
@[simp] theorem results_three_res2 (v w x : Word) : (Results.three v w x).res2 = some x := rfl

end Sys2Proof.Machine
end

