-- ==== Sys2Proof/Laws/Ops.lean ====
section
/-! SUPPORT. For each shared operation, one lemma that says everything it can do; later proofs cite these and do not
unfold the operation. -/

namespace Sys2Proof.Machine

theorem onRun_some {s : State} {r : Run} (h : s.running = some r) (f : Run → State) :
    onRun s f = .next (f r) := by simp [onRun, h]

theorem onRun_none {s : State} (h : s.running = none) (f : Run → State) : onRun s f = .next s := by
  simp [onRun, h]

/-- A move of the core answers a next state: the move of the running command, or the same state if none runs. -/
theorem onRun_cases {s t : State} {f : Run → State} (h : onRun s f = .next t) :
    (∃ r, s.running = some r ∧ t = f r) ∨ (s.running = none ∧ t = s) := by
  unfold onRun at h
  split at h
  · next r hr => cases h; exact .inl ⟨r, hr, rfl⟩
  · next hr => cases h; exact .inr ⟨hr, rfl⟩

theorem onRun_next (s : State) (f : Run → State) : ∃ t, onRun s f = .next t := by
  unfold onRun; split <;> exact ⟨_, rfl⟩

/-- A `CMD` write is ignored, accepted or faults (rules R82, R86). -/
theorem presentCommand_cases (w : Word) (s : State) :
    ((s.busy = true ∨ s.fatal = true) ∧ presentCommand w s = s) ∨
    (s.busy = false ∧ s.fatal = false ∧ ∃ op, decode w = .ok op ∧ presentCommand w s = accept op s) ∨
    (s.busy = false ∧ s.fatal = false ∧ (∃ why, decode w = .bad why) ∧
      presentCommand w s = raiseFatal .illegalCmd s) := by
  unfold presentCommand
  by_cases hb : s.busy = true
  · simp [hb]
  · by_cases hf : s.fatal = true
    · simp [hf]
    · cases hd : decode w <;> simp_all

@[simp] theorem regWrite_0 (v : Word) (s : State) : regWrite 0#3 v s = { s with opa := v } := rfl
@[simp] theorem regWrite_1 (v : Word) (s : State) : regWrite 1#3 v s = { s with opb := v } := rfl
@[simp] theorem regWrite_2 (v : Word) (s : State) : regWrite 2#3 v s = { s with opc := v } := rfl
@[simp] theorem regWrite_3 (v : Word) (s : State) : regWrite 3#3 v s = presentCommand v s := rfl
@[simp] theorem regWrite_4 (v : Word) (s : State) : regWrite 4#3 v s = s := rfl
@[simp] theorem regWrite_5 (v : Word) (s : State) : regWrite 5#3 v s = s := rfl
@[simp] theorem regWrite_6 (v : Word) (s : State) : regWrite 6#3 v s = s := rfl
@[simp] theorem regWrite_7 (v : Word) (s : State) : regWrite 7#3 v s = s := rfl

@[simp] theorem ofIndex_index (r : Reg) : Reg.ofIndex r.index = r := by cases r <;> rfl

/-- A write changes an operand register, or presents a command, or changes nothing (rule R33). -/
theorem regWrite_cases (i : BitVec 3) (v : Word) (s : State) :
    regWrite i v s = { s with opa := v } ∨ regWrite i v s = { s with opb := v } ∨
    regWrite i v s = { s with opc := v } ∨ regWrite i v s = presentCommand v s ∨ regWrite i v s = s := by
  unfold regWrite
  cases Reg.ofIndex i <;> simp [writeReg]

/-- A transaction logs a read, changes an operand register, presents a command, or changes nothing (rules R32,
R33). -/
theorem performTxn_cases (t : Txn) (s : State) :
    (∃ i, performTxn t s = logRead i (s.regRead i) s) ∨
    (∃ v, performTxn t s = { s with opa := v } ∨ performTxn t s = { s with opb := v } ∨
      performTxn t s = { s with opc := v } ∨ performTxn t s = presentCommand v s ∨ performTxn t s = s) := by
  cases t with
  | read i => exact .inl ⟨i, rfl⟩
  | write i v => exact .inr ⟨v, regWrite_cases i v s⟩

@[simp] theorem hostEdge_reset (t : Option Txn) (s : State) : hostEdge true t s = resetEdge s := rfl
@[simp] theorem hostEdge_txn (t : Txn) (s : State) : hostEdge false (some t) s = performTxn t s := rfl
@[simp] theorem hostEdge_none (s : State) : hostEdge false none s = s := rfl

/-- An exponentiation that ends a command completes it or faults on a zero modulus (rules R47, R84, R95). -/
theorem finishModexp_cases (s : State) (r : Run) (x y m : Word) (out : Word → Results) :
    (m = 0#64 ∧ finishModexp s r x y m out = raiseFatal .zeroModulus s) ∨
    (m ≠ 0#64 ∧ ∃ v, modexp x y m = some v ∧ finishModexp s r x y m out = complete s r (out v)) := by
  unfold finishModexp
  cases h : modexp x y m with
  | none => exact .inl ⟨(modexp_eq_none_iff x y m).1 h, rfl⟩
  | some v => exact .inr ⟨fun hm => by simp [modexp, hm] at h, v, rfl, rfl⟩

/-- A move of `primegen`: request, wait, complete with a prime, or draw again (rule R55). -/
theorem primegenMove_cases (s : State) (r : Run) :
    (r.draw = .idle ∧ primegenMove s r = goOn s (requestDraw { r with stage := .findP })) ∨
    (∃ lo hi, r.draw = .requested lo hi ∧ primegenMove s r = s) ∨
    (∃ v, r.draw = .answered v ∧ isPrime v = true ∧ primegenMove s r = complete s r (Results.one v)) ∨
    (∃ v, r.draw = .answered v ∧ isPrime v = false ∧ primegenMove s r = goOn s (requestDraw r)) := by
  unfold primegenMove
  cases r.draw with
  | idle => simp
  | requested lo hi => simp
  | answered v => cases h : isPrime v <;> simp [h]

/-- The guard of the key search: fault, draw `q` again, or return the pair (rule R69). -/
theorem keyGuard_cases (p q : Word) (r : Run) :
    (lcmWord (p - 1#64) (q - 1#64) = .divZero ∧ keyGuard p q r = .divZero) ∨
    (∃ l o, lcmWord (p - 1#64) (q - 1#64) = .value l o ∧ redrawCondition l = true ∧
      keyGuard p q r = .goOn (requestDraw { r with accOvf := r.accOvf || o })) ∨
    (∃ l o, lcmWord (p - 1#64) (q - 1#64) = .value l o ∧ redrawCondition l = false ∧
      keyGuard p q r = .found p q { r with accOvf := r.accOvf || o }) := by
  unfold keyGuard
  cases lcmWord (p - 1#64) (q - 1#64) with
  | divZero => simp
  | value l o =>
    cases h : redrawCondition l with
    | true => exact .inr (.inl ⟨l, o, rfl, h, by simp [h]⟩)
    | false => exact .inr (.inr ⟨l, o, rfl, h, by simp [h]⟩)

/-- A move of the key search (rules R69, R90). -/
theorem keyMove_cases (r : Run) :
    (r.draw = .idle ∧ keyMove r = .goOn (requestDraw { r with stage := .findP })) ∨
    (∃ lo hi, r.draw = .requested lo hi ∧ keyMove r = .wait) ∨
    (∃ v, r.draw = .answered v ∧ isPrime v = false ∧ keyMove r = .goOn (requestDraw r)) ∨
    (∃ v p, r.draw = .answered v ∧ isPrime v = true ∧ r.stage = .findQ p ∧ keyMove r = keyGuard p v r) ∨
    (∃ v, r.draw = .answered v ∧ isPrime v = true ∧ (∀ p, r.stage ≠ .findQ p) ∧
      keyMove r = .goOn (requestDraw { r with stage := .findQ v })) := by
  match hd : r.draw with
  | .idle => exact .inl ⟨rfl, by simp [keyMove, hd]⟩
  | .requested lo hi => exact .inr (.inl ⟨lo, hi, rfl, by simp [keyMove, hd]⟩)
  | .answered v =>
    match hv : isPrime v, hs : r.stage with
    | false, _ => exact .inr (.inr (.inl ⟨v, rfl, hv, by simp [keyMove, keyAnswer, hd, hv]⟩))
    | true, .findQ p =>
      exact .inr (.inr (.inr (.inl ⟨v, p, rfl, hv, rfl, by simp only [keyMove, keyAnswer, hd, hv, hs, if_true]⟩)))
    | true, .start =>
      exact .inr (.inr (.inr (.inr ⟨v, rfl, hv, by simp, by simp only [keyMove, keyAnswer, hd, hv, hs, if_true]⟩)))
    | true, .findP =>
      exact .inr (.inr (.inr (.inr ⟨v, rfl, hv, by simp, by simp only [keyMove, keyAnswer, hd, hv, hs, if_true]⟩)))
    | true, .exponentiate _ _ =>
      exact .inr (.inr (.inr (.inr ⟨v, rfl, hv, by simp, by simp only [keyMove, keyAnswer, hd, hv, hs, if_true]⟩)))

/-- The rest of DECRYPT after `lcm`: the exponent is the inverse, or the next `ANY_u64` with `noinv` set (rules
R66, R77). -/
theorem decryptWith_cases (s : State) (r : Run) (l : Word) :
    (∃ d, modinv Config.publicExponent l = some d ∧
      decryptWith s r l = finishModexp s r r.c d (r.a * r.b) Results.one) ∨
    (modinv Config.publicExponent l = none ∧
      decryptWith s r l = finishModexp (takeAny s).2 { r with accNoinv := true } r.c (Config.anyU64 s.anys)
        (r.a * r.b) Results.one) := by
  unfold decryptWith
  cases modinv Config.publicExponent l <;> simp

end Sys2Proof.Machine
end

