-- ==== Sys2Proof/Laws/Functions.lean ====
section
/-! SUPPORT. The spec lemmas of `modexp` and `modinv` on integers: what the recursion of rule R47 and the extended
Euclidean loop of rule R65 compute. -/

namespace Sys2Proof.Machine

/-- The recursion of `modexp` on integers (rule R51): the unreduced 1 for `y = 0`, else `x^y mod m`. -/
theorem modexpRec_toNat (x m : Word) (hm : m ≠ 0#64) : ∀ (fuel : Nat) (y : Word), y.toNat < 2 ^ fuel →
    (modexpRec x m fuel y).toNat = if y = 0#64 then 1 else x.toNat ^ y.toNat % m.toNat := by
  intro fuel
  induction fuel with
  | zero =>
    intro y hy
    have : y = 0#64 := (word_eq_zero_iff y).2 (by omega)
    simp [modexpRec, this]
  | succ n ih =>
    intro y hy
    by_cases h0 : y = 0#64
    · simp [modexpRec, h0]
    have hdiv : (y / 2#64).toNat = y.toNat / 2 := by simp [BitVec.toNat_udiv]
    have hz : (modexpRec x m n (y / 2#64)).toNat ≡ x.toNat ^ (y.toNat / 2) [MOD m.toNat] := by
      rw [ih _ (by rw [hdiv]; omega)]
      split
      · next h => rw [← hdiv, h]; rfl
      · rw [hdiv]; exact Nat.mod_modEq _ _
    have hs : (mulMod (modexpRec x m n (y / 2#64)) (modexpRec x m n (y / 2#64)) m).toNat
        = x.toNat ^ (y.toNat / 2 * 2) % m.toNat := by
      rw [mulMod_toNat _ _ _ hm, pow_mul, pow_two]
      exact hz.mul hz
    have hbit : y.getLsbD 0 = decide (y.toNat % 2 = 1) := by
      rw [BitVec.getLsbD, Nat.testBit_zero]
    simp only [modexpRec, h0, if_false, hbit, decide_eq_true_eq]
    split
    · next hodd =>
      have he : y.toNat / 2 * 2 + 1 = y.toNat := by omega
      rw [mulMod_toNat _ _ _ hm, hs, Nat.mod_mul_mod, ← pow_succ, he]
    · next heven =>
      have he : y.toNat / 2 * 2 = y.toNat := by omega
      rw [hs, he]

/-- `modexp` on integers (rules R47, R51). -/
theorem modexp_eq_value (x y m : Word) (hm : m ≠ 0#64) :
    modexp x y m = some (modexpValue x.toNat y.toNat m.toNat) := by
  have hx : x = 0#64 ↔ x.toNat = 0 := word_eq_zero_iff x
  have hy : y = 0#64 ↔ y.toNat = 0 := word_eq_zero_iff y
  have hpos : 0 < m.toNat := Nat.pos_of_ne_zero ((word_ne_zero_iff m).1 hm)
  have hrec := modexpRec_toNat x m hm 64 y y.isLt
  unfold modexp modexpValue
  rw [if_neg hm]
  by_cases h : x = 0#64
  · simp [h]
  · rw [if_neg h, if_neg (mt hx.2 h)]
    by_cases h0 : y = 0#64
    · rw [if_pos (hy.1 h0), h0]; rfl
    · rw [if_neg (mt hy.2 h0)]
      congr 1
      apply BitVec.eq_of_toNat_eq
      rw [hrec, if_neg h0, BitVec.toNat_ofNat]
      exact (Nat.mod_eq_of_lt (lt_trans (Nat.mod_lt _ hpos) m.isLt)).symm

/-- An exponentiation that ends a command, with a modulus that is not 0, completes it with the integer value. -/
theorem finishModexp_value (s : State) (r : Run) (x y m : Word) (out : Word → Results) (hm : m ≠ 0#64) :
    finishModexp s r x y m out = complete s r (out (modexpValue x.toNat y.toNat m.toNat)) := by
  simp [finishModexp, modexp_eq_value x y m hm]

/-- The extended Euclidean loop ends, from coprime remainders, with a coefficient below `m` in size that inverts `a`
(rule R65). -/
theorem euclidLoop_spec (a m : Nat) : ∀ (fuel : Nat) (t0 t1 : Int) (r0 r1 u v : Nat), r1 < fuel →
    ((t0 = u ∧ t1 = -v) ∨ (t0 = -u ∧ t1 = v)) → v * r0 + u * r1 = m → Nat.gcd r0 r1 = 1 →
    (2 ≤ r0 ∨ r1 = 0) → (r1 = 0 → u < m) →
    (m : Int) ∣ t0 * a - r0 → (m : Int) ∣ t1 * a - r1 →
    (euclidLoop fuel t0 t1 r0 r1).natAbs < m ∧ (m : Int) ∣ euclidLoop fuel t0 t1 r0 r1 * a - 1 := by
  intro fuel
  induction fuel with
  | zero => intro t0 t1 r0 r1 u v h; omega
  | succ n ih =>
    intro t0 t1 r0 r1 u v hf hs hm hg h2 hu d0 d1
    by_cases h1 : r1 = 0
    · have hr0 : r0 = 1 := by simpa [h1] using hg
      simp only [euclidLoop, h1, if_true]
      refine ⟨?_, by simpa [hr0] using d0⟩
      have := hu h1
      rcases hs with ⟨rfl, -⟩ | ⟨rfl, -⟩ <;> simpa using this
    · have hpos : 0 < r1 := Nat.pos_of_ne_zero h1
      have hr0 : 2 ≤ r0 := by omega
      have hmod : r0 - r0 / r1 * r1 = r0 % r1 := by
        have := Nat.div_add_mod r0 r1
        rw [mul_comm] at this; omega
      have hdm : r0 / r1 * r1 + r0 % r1 = r0 := by
        have := Nat.div_add_mod r0 r1
        rwa [mul_comm] at this
      simp only [euclidLoop, h1, if_false]
      rw [hmod]
      refine ih _ _ _ _ v (u + r0 / r1 * v) ?_ ?_ ?_ ?_ ?_ ?_ d1 ?_
      · have := Nat.mod_lt r0 hpos; omega
      · rcases hs with ⟨rfl, rfl⟩ | ⟨rfl, rfl⟩
        · exact .inr ⟨rfl, by push_cast; ring⟩
        · exact .inl ⟨rfl, by push_cast; ring⟩
      · calc (u + r0 / r1 * v) * r1 + v * (r0 % r1) = v * (r0 / r1 * r1 + r0 % r1) + u * r1 := by ring
          _ = m := by rw [hdm, hm]
      · rw [Nat.gcd_comm, ← Nat.gcd_rec, Nat.gcd_comm]; exact hg
      · by_cases hr1 : r1 = 1
        · right; rw [hr1]; exact Nat.mod_one _
        · left; omega
      · intro hz
        have hr1 : r1 = 1 := by
          have : r1 ∣ r0 := Nat.dvd_of_mod_eq_zero hz
          have h3 : r1 ∣ Nat.gcd r0 r1 := Nat.dvd_gcd this dvd_rfl
          rw [hg] at h3; exact Nat.dvd_one.1 h3
        rw [hr1] at hm
        by_cases hv : v = 0
        · subst hv
          have : (0 : Nat) * r0 + u * 1 = m := hm
          by_contra hcon
          have hm0 : m = 0 := by omega
          have hu0 : u = 0 := by omega
          subst hu0
          have t0z : t0 = 0 := by rcases hs with ⟨h, -⟩ | ⟨h, -⟩ <;> simpa using h
          rw [t0z, hm0] at d0
          have := zero_dvd_iff.1 d0
          omega
        · have : v * 2 ≤ v * r0 := Nat.mul_le_mul_left _ hr0
          omega
      · have hqr : ((r0 % r1 : Nat) : Int) = r0 - (r0 / r1 : Nat) * r1 := by
          have : ((r0 / r1 * r1 + r0 % r1 : Nat) : Int) = r0 := by exact_mod_cast hdm
          push_cast at this ⊢; linarith
        have e : (t0 - (r0 / r1 : Nat) * t1) * a - ((r0 % r1 : Nat) : Int)
            = (t0 * a - r0) - (r0 / r1 : Nat) * (t1 * a - r1) := by rw [hqr]; ring
        rw [e]
        exact dvd_sub d0 (Dvd.dvd.mul_left d1 _)

/-- A number below `m` that inverts `a` is the only one. -/
theorem isInverse_of (a m x : Nat) (hx : x < m) (h : a * x % m = 1 % m) : IsInverse a m x := by
  refine ⟨hx, h, ?_⟩
  intro y hy hy1
  have hcop : Nat.Coprime m a := by
    have hd : Nat.gcd m a ∣ 1 := by
      have h1 : Nat.gcd m a ∣ a * x := (Nat.gcd_dvd_right m a).mul_right x
      have : a * x ≡ 1 [MOD m] := h
      exact ((this.dvd_iff (Nat.gcd_dvd_left m a)).1 h1)
    exact Nat.dvd_one.1 hd
  have : a * y ≡ a * x [MOD m] := (hy1.trans h.symm)
  have := Nat.ModEq.cancel_left_of_coprime hcop this
  rwa [Nat.ModEq, Nat.mod_eq_of_lt hy, Nat.mod_eq_of_lt hx] at this

/-- `modinv` answers the inverse where one exists (rules R64, R65). -/
theorem modinv_spec (a m : Word) (hm : m ≠ 0#64) (hg : Nat.gcd a.toNat m.toNat = 1) :
    ∃ x, modinv a m = some x ∧ IsInverse a.toNat m.toNat x.toNat := by
  have hpos : 0 < m.toNat := Nat.pos_of_ne_zero ((word_ne_zero_iff m).1 hm)
  by_cases h1 : m = 1#64
  · refine ⟨0#64, by simp [modinv, h1], ?_⟩
    rw [h1]
    exact isInverse_of _ _ _ (by decide) (by simp)
  · have h1' : m.toNat ≠ 1 := fun h => h1 (BitVec.eq_of_toNat_eq h)
    have hn : hasNoInverse a m = false := by
      have := (not_congr (hasNoInverse_iff a m)).2 (by omega)
      simpa using this
    refine ⟨euclidInverse a m, by simp [modinv, h1, hn], ?_⟩
    obtain ⟨hb, hd⟩ := euclidLoop_spec a.toNat m.toNat (a.toNat + 1) 0 1 m.toNat a.toNat 0 1
      (Nat.lt_succ_self _) (.inr ⟨by simp, by simp⟩) (by simp) (by rwa [Nat.gcd_comm] ) (.inl (by omega))
      (fun _ => hpos) (by simp) (by simp)
    set t := euclidLoop (a.toNat + 1) 0 1 m.toNat a.toNat with ht
    have hval : ∃ x : Nat, (if t < 0 then t + m.toNat else t) = (x : Int) ∧ x < m.toNat ∧ (m.toNat : Int) ∣ x * a.toNat - 1 := by
      by_cases hneg : t < 0
      · refine ⟨(t + m.toNat).toNat, ?_, ?_, ?_⟩
        · rw [if_pos hneg, Int.toNat_of_nonneg (by omega)]
        · omega
        · rw [Int.toNat_of_nonneg (by omega)]
          have : (t + m.toNat) * a.toNat - 1 = (t * a.toNat - 1) + m.toNat * a.toNat := by ring
          rw [this]; exact dvd_add hd (dvd_mul_right _ _)
      · refine ⟨t.toNat, ?_, ?_, ?_⟩
        · rw [if_neg hneg, Int.toNat_of_nonneg (by omega)]
        · omega
        · rwa [Int.toNat_of_nonneg (by omega)]
    obtain ⟨x, hx, hlt, hdvd⟩ := hval
    have hw : (euclidInverse a m).toNat = x := by
      show (BitVec.ofInt 64 (if t < 0 then t + m.toNat else t)).toNat = x
      rw [hx, BitVec.ofInt_natCast, BitVec.toNat_ofNat]
      exact Nat.mod_eq_of_lt (lt_trans hlt m.isLt)
    rw [hw]
    refine isInverse_of _ _ _ hlt ?_
    have : ((x * a.toNat : Nat) : Int) ≡ (1 : Nat) [ZMOD m.toNat] := by
      refine (Int.modEq_iff_dvd.2 ?_).symm
      push_cast
      simpa using hdvd
    have := (Int.natCast_modEq_iff).1 this
    rw [mul_comm]; exact this

/-- `modinv` on integers without an inverse (rule R66). -/
theorem modinv_none (a m : Word) (h : m = 0#64 ∨ Nat.gcd a.toNat m.toNat ≠ 1) : modinv a m = none := by
  rw [modinv_eq_none_iff]
  by_cases h0 : m = 0#64
  · exact .inl ((word_eq_zero_iff m).1 h0)
  · have h0' := (word_ne_zero_iff m).1 h0
    have hg : Nat.gcd a.toNat m.toNat ≠ 1 := h.resolve_left h0
    refine .inr ⟨?_, hg⟩
    by_contra hlt
    have : m.toNat = 1 := by omega
    rw [this] at hg; simp at hg

end Sys2Proof.Machine
end

