-- ==== Sys2Proof/Laws/Step.lean ====
section
/-! SUPPORT. What a step can do: every command answers a next state, and the inversion lemmas of the three agents'
turns, from which invariants are derived. -/

namespace Sys2Proof.Machine

/-- No command of this machine stops the model: `exec` always answers a next state. -/
theorem exec_next (i : Instr) (s : State) : ∃ t, exec i s = .next t := by
  cases i <;> exact onRun_next s _

/-- With no command latched, `exec` changes nothing. -/
theorem exec_none (i : Instr) {s : State} (h : s.running = none) : exec i s = .next s := by
  cases i <;> exact onRun_none h _

theorem nextAgent_nil {s : State} (h : s.schedule = []) :
    s.nextAgent = if s.coreReady then .core else if s.sourceReady then .source else .host := by
  simp [State.nextAgent, h]

theorem nextAgent_cons {s : State} {a : Agent} {l : List Agent} (h : s.schedule = a :: l) : s.nextAgent = a := by
  simp [State.nextAgent, h]

theorem step_core {s : State} {r : Run} (ha : s.nextAgent = .core) (hr : s.running = some r) :
    step s = exec r.op (popTurn s) := by
  simp [step, ha, coreTurn, hr]

/-- The random source's turn (rules R23, R116). -/
theorem sourceTurn_cases {s t : State} (h : sourceTurn s = .next t) :
    ∃ r lo hi, s.running = some r ∧ r.draw = .requested lo hi ∧
      ((s.answers = [] ∧ t = s) ∨ (∃ v rest, s.answers = v :: rest ∧ t = deliver r lo hi v rest s)) := by
  unfold sourceTurn at h
  split at h
  · next r hr =>
    split at h
    · next lo hi hd =>
      refine ⟨r, lo, hi, hr, hd, ?_⟩
      split at h
      · next v rest ha => cases h; exact .inr ⟨v, rest, ha, rfl⟩
      · next ha => cases h; exact .inl ⟨ha, rfl⟩
    · cases h
    · cases h
  · cases h

/-- One line of the script performs one transaction, or resets, or leaves the core alone; a `wait` may come back, and
a `rd REG -> name` binds its variable (rule R44). -/
theorem runLine_cases {l : Line} {s t : State} (h : runLine l s = .next t) :
    (∃ x, t = performTxn x s) ∨
    (∃ r n v, t = bindVar n v (performTxn (.read r) s)) ∨
    (∃ x, t = pushLine .wait (performTxn (.read x) s)) ∨
    (l = .reset ∧ t = resetEdge s) ∨ t = s := by
  cases l with
  | wr r v =>
    simp only [runLine] at h
    split at h
    · cases h; exact .inl ⟨_, hostEdge_txn _ _⟩
    · cases h
  | cmd w => cases h; exact .inl ⟨_, hostEdge_txn _ _⟩
  | rd r => cases h; exact .inl ⟨_, hostEdge_txn _ _⟩
  | rdTo r n => cases h; exact .inr (.inl ⟨_, _, _, rfl⟩)
  | wait =>
    simp only [runLine] at h
    split at h
    · cases h; exact .inr (.inr (.inl ⟨_, rfl⟩))
    · cases h; exact .inl ⟨_, hostEdge_txn _ _⟩
  | reset => cases h; exact .inr (.inr (.inr (.inl ⟨rfl, rfl⟩)))
  | comment text => cases h; exact .inr (.inr (.inr (.inr rfl)))
  | busWrite addr size v =>
    simp only [runLine] at h
    split at h
    · cases h; exact .inl ⟨_, hostEdge_txn _ _⟩
    · cases h
  | busRead addr size =>
    simp only [runLine] at h
    split at h
    · cases h; exact .inl ⟨_, hostEdge_txn _ _⟩
    · cases h

/-- The host's turn: nothing with an empty script, else its first line (rule R44). -/
theorem hostTurn_cases {s t : State} (h : hostTurn s = .next t) :
    (s.script = [] ∧ t = s) ∨ ∃ l rest, s.script = l :: rest ∧ runLine l (dropLine s) = .next t := by
  unfold hostTurn at h
  split at h
  · next hs => cases h; exact .inl ⟨hs, rfl⟩
  · next l rest hs => exact .inr ⟨l, rest, hs, h⟩

/-- What one step can do: the host performs a line, the core moves the running command or does nothing, or the random
source answers. -/
theorem step_cases {s t : State} (h : step s = .next t) :
    (s.nextAgent = .host ∧ hostTurn (popTurn s) = .next t) ∨
    (s.nextAgent = .core ∧ ∃ r, s.running = some r ∧ exec r.op (popTurn s) = .next t) ∨
    (s.nextAgent = .core ∧ s.running = none ∧ t = popTurn s) ∨
    (s.nextAgent = .source ∧ sourceTurn (popTurn s) = .next t) := by
  unfold step at h
  split at h
  · next ha => exact .inl ⟨ha, h⟩
  · next ha =>
    unfold coreTurn at h
    split at h
    · next r hr => exact .inr (.inl ⟨ha, r, hr, h⟩)
    · next hr => cases h; exact .inr (.inr (.inl ⟨ha, hr, rfl⟩))
  · next ha => exact .inr (.inr (.inr ⟨ha, h⟩))

/-- The host's turn with a line left: the line runs in the state without the turn and the line (rule R44). -/
theorem step_host {s : State} {l : Line} {rest : List Line} (ha : s.nextAgent = .host) (hs : s.script = l :: rest) :
    step s = runLine l { s with schedule := s.schedule.tail, script := rest } := by
  have hp : (popTurn s).script = l :: rest := hs
  simp only [step, ha, hostTurn, hp]
  simp [dropLine, popTurn, hs]

/-- The latest binding of a script variable is its value (rule R44). -/
theorem valueOf_name_bound {s : State} {n : Nat} {v : Word} {newer older : List (Nat × Word)}
    (hv : s.vars = newer ++ (n, v) :: older) (hn : ∀ b ∈ newer, b.1 ≠ n) : s.valueOf (.name n) = some v := by
  have hnone : newer.lookup n = none := by
    rw [List.lookup_eq_none_iff]
    exact fun b hb => bne_iff_ne.2 (hn b hb).symm
  simp [State.valueOf, hv, List.lookup_append, hnone]

/-- A script variable has no value exactly where nothing has bound it (log entry 11). -/
theorem valueOf_name_none {s : State} {n : Nat} : s.valueOf (.name n) = none ↔ ∀ b ∈ s.vars, b.1 ≠ n := by
  simp only [State.valueOf, List.lookup_eq_none_iff, bne_iff_ne, ne_comm]

end Sys2Proof.Machine
end

