-- ==== Sys2Proof/Laws/Exec.lean ====
section
/-! SUPPORT. The one inversion lemma of `exec`: every move of the core on a running command is one of the listed moves
(rules R55, R69, R73, R83 to R85), so that an invariant is proved by cases on them. -/

namespace Sys2Proof.Machine

/-- The state in which a command ends: as it was, or with one `ANY_u64` taken (rule R66). -/
def endsFrom (s u : State) : Prop := u = s ∨ u = (takeAny s).2

/-- The moves of the core on the running command `r` as command `i`, from `s` to the state given last. -/
inductive CoreMove (i : Instr) (r : Run) (s : State) : State → Prop where
  /-- the command waits for an outstanding draw (rule R57) -/
  | wait (lo hi : Word) (hi' : drawsNumbers i = true) (hd : r.draw = .requested lo hi) : CoreMove i r s s
  /-- the first draw is requested (rule R55) -/
  | begin (hi' : drawsNumbers i = true) (hd : r.draw = .idle) (hs : i = .encrypt → ∀ p q, r.stage ≠ .exponentiate p q) :
      CoreMove i r s (goOn s (requestDraw { r with stage := .findP }))
  /-- an answer that is not prime is discarded and another draw requested (rule R55) -/
  | discard (v : Word) (hi' : drawsNumbers i = true) (hd : r.draw = .answered v) (hv : isPrime v = false) :
      CoreMove i r s (goOn s (requestDraw r))
  /-- `p` is found and the first draw for `q` requested (rule R69) -/
  | gotP (v : Word) (hi' : findsKey i = true) (hd : r.draw = .answered v) (hv : isPrime v = true)
      (hs : ∀ p, r.stage ≠ .findQ p) : CoreMove i r s (goOn s (requestDraw { r with stage := .findQ v }))
  /-- the guard of the key search holds and `q` is drawn again (rule R69) -/
  | redraw (p q l : Word) (o : Bool) (hi' : findsKey i = true) (hs : r.stage = .findQ p)
      (hd : r.draw = .answered q) (hv : isPrime q = true) (hl : lcmWord (p - 1#64) (q - 1#64) = .value l o)
      (hc : redrawCondition l = true) :
      CoreMove i r s (goOn s (requestDraw { r with accOvf := r.accOvf || o }))
  /-- ENCRYPT emits `Info(p, q, n)` (rule R75) -/
  | announce (p q l : Word) (o : Bool) (hi' : i = .encrypt) (hs : r.stage = .findQ p)
      (hd : r.draw = .answered q) (hv : isPrime q = true) (hl : lcmWord (p - 1#64) (q - 1#64) = .value l o)
      (hc : redrawCondition l = false) :
      CoreMove i r s (announceKey s { r with accOvf := r.accOvf || o } p q)
  /-- the command completes (rule R84) -/
  | finish (u : State) (r' : Run) (out : Results) (hu : endsFrom s u)
      (ho : r'.accOvf = r.accOvf ∨ i ∈ [Instr.lcm, .genkey, .encrypt, .decrypt])
      (hn : r'.accNoinv = r.accNoinv ∨ i ∈ [Instr.modinv, .decrypt]) :
      CoreMove i r s (complete u r' out)
  /-- MODEXP, LCM or DECRYPT faults (rules R85, R94) -/
  | fault (u : State) (code : FaultCode) (hu : endsFrom s u) (hi' : i ∈ [Instr.modexp, .lcm, .decrypt]) :
      CoreMove i r s (raiseFatal code u)
  /-- the key search meets `lcm(0, 0)`; no primes lead here (rule R70) -/
  | keyFault (p q : Word) (hi' : findsKey i = true) (hs : r.stage = .findQ p) (hd : r.draw = .answered q)
      (hv : isPrime q = true) (hl : lcmWord (p - 1#64) (q - 1#64) = .divZero) :
      CoreMove i r s (raiseFatal .divZero s)
  /-- ENCRYPT meets a zero modulus; no primes lead here (rule R74) -/
  | cipherFault (p q : Word) (hi' : i = .encrypt) (hs : r.stage = .exponentiate p q) (hz : p * q = 0#64) :
      CoreMove i r s (raiseFatal .zeroModulus s)

/-- The moves of the key search, for the command that completes with the pair or announces it. -/
theorem keyMove_coreMove {i : Instr} {r : Run} {s : State} (hk : findsKey i = true) (hw : drawsNumbers i = true)
    (hs : i = .encrypt → ∀ p q, r.stage ≠ .exponentiate p q) (found : Word → Word → Run → State)
    (hf : ∀ p q l o, r.stage = .findQ p → r.draw = .answered q → isPrime q = true →
      lcmWord (p - 1#64) (q - 1#64) = .value l o → redrawCondition l = false →
      CoreMove i r s (found p q { r with accOvf := r.accOvf || o })) :
    CoreMove i r s (match keyMove r with
      | .goOn r' => goOn s r'
      | .wait => s
      | .found p q r' => found p q r'
      | .divZero => raiseFatal .divZero s) := by
  rcases keyMove_cases r with ⟨hd, h⟩ | ⟨lo, hi, hd, h⟩ | ⟨v, hd, hv, h⟩ | ⟨v, p, hd, hv, hp, h⟩ |
    ⟨v, hd, hv, hp, h⟩
  · rw [h]; exact .begin hw hd hs
  · rw [h]; exact .wait lo hi hw hd
  · rw [h]; exact .discard v hw hd hv
  · rcases keyGuard_cases p v r with ⟨hl, h'⟩ | ⟨l, o, hl, hc, h'⟩ | ⟨l, o, hl, hc, h'⟩
    · rw [h, h']; exact .keyFault p v hk hp hd hv hl
    · rw [h, h']; exact .redraw p v l o hk hp hd hv hl hc
    · rw [h, h']; exact hf p v l o hp hd hv hl hc
  · rw [h]; exact .gotP v hk hd hv hp

/-- An exponentiation that ends MODEXP or DECRYPT. -/
theorem finishModexp_coreMove {i : Instr} {r r' : Run} {s u : State} (x y m : Word) (out : Word → Results)
    (hu : endsFrom s u) (hi : i ∈ [Instr.modexp, .lcm, .decrypt])
    (ho : r'.accOvf = r.accOvf ∨ i ∈ [Instr.lcm, .genkey, .encrypt, .decrypt])
    (hn : r'.accNoinv = r.accNoinv ∨ i ∈ [Instr.modinv, .decrypt]) :
    CoreMove i r s (finishModexp u r' x y m out) := by
  rcases finishModexp_cases u r' x y m out with ⟨_, h⟩ | ⟨_, v, _, h⟩
  · rw [h]; exact .fault u .zeroModulus hu hi
  · rw [h]; exact .finish u r' _ hu ho hn

/-- Every move of `exec` on a running command is one of `CoreMove`'s. -/
theorem exec_coreMove {i : Instr} {r : Run} {s t : State} (hr : s.running = some r) (h : exec i s = .next t) :
    CoreMove i r s t := by
  have same : endsFrom s s := .inl rfl
  cases i with
  | modexp =>
    rw [exec, execModexp, onRun_some hr] at h; cases h
    exact finishModexp_coreMove _ _ _ _ same (by simp) (.inl rfl) (.inl rfl)
  | primality =>
    rw [exec, execPrimality, onRun_some hr] at h; cases h
    exact .finish s r _ same (.inl rfl) (.inl rfl)
  | primegen =>
    rw [exec, execPrimegen, onRun_some hr] at h; cases h
    rcases primegenMove_cases s r with ⟨hd, h⟩ | ⟨lo, hi, hd, h⟩ | ⟨v, hd, hv, h⟩ | ⟨v, hd, hv, h⟩
    · rw [h]; exact .begin rfl hd (by simp)
    · rw [h]; exact .wait lo hi rfl hd
    · rw [h]; exact .finish s r _ same (.inl rfl) (.inl rfl)
    · rw [h]; exact .discard v rfl hd hv
  | gcd =>
    rw [exec, execGcd, onRun_some hr] at h; cases h
    exact .finish s r _ same (.inl rfl) (.inl rfl)
  | lcm =>
    rw [exec, execLcm, onRun_some hr] at h; cases h
    cases lcmWord r.a r.b with
    | divZero => exact .fault s .divZero same (by simp)
    | value v o => exact .finish s _ _ same (.inr (by simp)) (.inl rfl)
  | modinv =>
    rw [exec, execModinv, onRun_some hr] at h; cases h
    cases modinv r.a r.b with
    | none => exact .finish _ _ _ (.inr rfl) (.inl rfl) (.inr (by simp))
    | some x => exact .finish s r _ same (.inl rfl) (.inl rfl)
  | genkey =>
    rw [exec, execGenkey, onRun_some hr] at h; cases h
    exact keyMove_coreMove (i := .genkey) rfl rfl (by simp) (fun p q r' => complete s r' (Results.two p q))
      fun p q l o _ _ _ _ _ => .finish s _ _ same (.inr (by simp)) (.inl rfl)
  | encrypt =>
    rw [exec, execEncrypt, onRun_some hr] at h; cases h
    have search : (∀ p q, r.stage ≠ .exponentiate p q) → CoreMove .encrypt r s (match keyMove r with
        | .goOn r' => goOn s r'
        | .wait => s
        | .found p q r' => announceKey s r' p q
        | .divZero => raiseFatal .divZero s) := fun hs =>
      keyMove_coreMove (i := .encrypt) rfl rfl (fun _ => hs) (fun p q r' => announceKey s r' p q)
        fun p q l o hp hd hv hl hc => .announce p q l o rfl hp hd hv hl hc
    match hst : r.stage with
    | .exponentiate p q =>
      simp only []
      rcases finishModexp_cases s r r.a Config.publicExponent (p * q) (Results.three p q) with ⟨hz, h⟩ | ⟨_, v, _, h⟩
      · rw [h]; exact .cipherFault p q rfl hst hz
      · rw [h]; exact .finish s r _ same (.inl rfl) (.inl rfl)
    | .start => exact search (by simp [hst])
    | .findP => exact search (by simp [hst])
    | .findQ p => exact search (by simp [hst])
  | decrypt =>
    rw [exec, execDecrypt, onRun_some hr] at h; cases h
    cases lcmWord (r.a - 1#64) (r.b - 1#64) with
    | divZero => exact .fault s .divZero same (by simp)
    | value l o =>
      simp only []
      rcases decryptWith_cases s { r with accOvf := r.accOvf || o } l with ⟨d, _, h⟩ | ⟨_, h⟩
      · rw [h]; exact finishModexp_coreMove _ _ _ _ same (by simp) (.inr (by simp)) (.inl rfl)
      · rw [h]; exact finishModexp_coreMove _ _ _ _ (.inr rfl) (by simp) (.inr (by simp)) (.inr (by simp))

end Sys2Proof.Machine
end

