-- ==== Sys2Proof/Laws/PerInstr.lean ====
section
/-! SUPPORT. Facts about every command as syntax, one lemma per constructor. -/

namespace Sys2Proof.Laws.EncodesLegal

/-- A command's word is legal (rule R40), its field `zero` is 0 and its field `opcode` is the command's. -/
def Statement (i : Instr) : Prop :=
  wordWf (encode i) = true ∧ (encode i).extractLsb' 4 60 = 0#60 ∧ (encode i).extractLsb' 0 4 = opcodeOf i

theorem modexp : Statement .modexp := by unfold Statement; decide
theorem primality : Statement .primality := by unfold Statement; decide
theorem primegen : Statement .primegen := by unfold Statement; decide
theorem gcd : Statement .gcd := by unfold Statement; decide
theorem lcm : Statement .lcm := by unfold Statement; decide
theorem modinv : Statement .modinv := by unfold Statement; decide
theorem genkey : Statement .genkey := by unfold Statement; decide
theorem encrypt : Statement .encrypt := by unfold Statement; decide
theorem decrypt : Statement .decrypt := by unfold Statement; decide

end Sys2Proof.Laws.EncodesLegal
end

