-- ==== Sys2Proof/Tests/Slice0.lean ====
section
/-! SUPPORT. Tests of the model against values of the spec (file 95_test_vectors.md, rules R12, R30, R39, R43), and for
each statement with hypotheses one theorem, `witness_…`, with concrete states and operands that meet them. -/

namespace Sys2Proof.Tests

open Sys2Proof Sys2Proof.Machine

/-! The checks of `WellFormed`, each with a term it refuses. -/

theorem test_wf_upper_bits : upperBitsZero 0x11#64 = false ∧ wordWf 0x11#64 = false := by decide
theorem test_wf_opcode_zero : opcodeNonzero 0x0#64 = false ∧ wordWf 0x0#64 = false := by decide
theorem test_wf_opcode_above_nine : opcodeAtMostNine 0xA#64 = false ∧ wordWf 0xA#64 = false := by decide
theorem test_wf_access_size : accessSizeOk 4 = false ∧ accessWf 0 8 4 = false := by decide
theorem test_wf_access_below_block : accessInBlock 64 56 = false ∧ accessWf 64 56 8 = false := by decide
theorem test_wf_access_above_block : accessInBlock 64 128 = false ∧ accessWf 64 128 8 = false := by decide
theorem test_wf_access_misaligned : accessAligned 64 68 = false ∧ accessWf 64 68 8 = false := by decide
theorem test_wf_legal : wordWf 0x9#64 = true ∧ accessWf 64 120 8 = true ∧ Instr.decrypt.wf = true := by decide

/-! Decoding: each word written out from the encoding of rules R39 and R40, the operand-free format with bits 63:4 zero. -/

theorem test_decode_modexp : decode 0b0001#64 = .ok .modexp := by decide
theorem test_decode_primality : decode 0b0010#64 = .ok .primality := by decide
theorem test_decode_primegen : decode 0b0011#64 = .ok .primegen := by decide
theorem test_decode_gcd : decode 0b0100#64 = .ok .gcd := by decide
theorem test_decode_lcm : decode 0b0101#64 = .ok .lcm := by decide
theorem test_decode_modinv : decode 0b0110#64 = .ok .modinv := by decide
theorem test_decode_genkey : decode 0b0111#64 = .ok .genkey := by decide
theorem test_decode_encrypt : decode 0b1000#64 = .ok .encrypt := by decide
theorem test_decode_decrypt : decode 0b1001#64 = .ok .decrypt := by decide

/-- The four illegal shapes of rule R43, program P5's `cmd 0x11` among them, and a high bit set. -/
theorem test_decode_illegal :
    decode 0x0#64 = .bad .opcodeZero ∧ decode 0xA#64 = .bad .opcodeReserved ∧ decode 0xF#64 = .bad .opcodeReserved ∧
    decode 0x11#64 = .bad .zeroField ∧ decode 0x8000000000000001#64 = .bad .zeroField := by decide

/-- The eight bytes of `cmd DECRYPT`, the least significant at the lowest address (rule R31). -/
theorem test_decode_bytes :
    decodeBytes [0x09#8, 0#8, 0#8, 0#8, 0#8, 0#8, 0#8, 0#8] = .ok .decrypt ∧
    decodeBytes [0#8, 0#8, 0#8, 0#8, 0#8, 0#8, 0#8, 0x09#8] = .bad .zeroField ∧
    decodeBytes [0x09#8] = .bad .notEightBytes := by decide

/-- `W 0x18 0x1` is `cmd MODEXP`, `R 0x30` reads `RES1` (file 95, programs P1 and P2). -/
theorem test_tuples :
    Txn.ofTuple (true, 0x18, some 0x1#64) = some (.write Reg.cmd.index (encode .modexp)) ∧
    Txn.ofTuple (false, 0x30, none) = some (.read Reg.res1.index) ∧ Reg.res1.offset = 0x30 := by decide

/-- Offsets that are none of rule R12's eight (log entry 20). -/
theorem test_tuples_bad_offset :
    Txn.ofTuple (true, 0x40, some 0x1#64) = none ∧ Txn.ofTuple (false, 0x03, none) = none := by decide

/-- `call` writes the operands the command reads, each a number or a script variable, in order (rules R41, R46). -/
theorem test_call_macro :
    callMacro .modexp (.name 0) (.lit 20#64) (.name 1) =
      [.wr .opa (.name 0), .wr .opb (.lit 20#64), .wr .opc (.name 1), .cmd 0x1#64, .wait] ∧
    callMacro .encrypt (.name 0) (.lit 0#64) (.lit 0#64) = [.wr .opa (.name 0), .cmd 0x8#64, .wait] ∧
    callMacro .genkey (.lit 0#64) (.lit 0#64) (.lit 0#64) = [.cmd 0x7#64, .wait] := by decide

/-! Small states. -/

/-- An IDLE core whose registers hold small distinct numbers. -/
def demo : State :=
  { State.reset with opa := 1#64, opb := 2#64, opc := 3#64, res0 := 4#64, res1 := 5#64, res2 := 6#64 }

/-- `demo` with the command `r` running. -/
def demoRun (r : Run) : State := { demo with busy := true, running := some r }

/-- `demo` with the command `op` just accepted with the operands `a`, `b`, `c`. -/
def demoCmd (op : Instr) (a b c : Word) : State := demoRun (Run.fresh op a b c)

/-- `demo` HALTED by `ZERO_MODULUS`. -/
def demoHalted : State := { demo with fatal := true, fault := 0x01#8 }

/-- `demo` with one line for the host to perform next. -/
def demoLine (l : Line) : State := { demo with script := [l], schedule := [.host] }

/-- What `f` reads of the next state, if there is one. -/
def after {α : Type} (o : Host.Outcome State Fault Refusal) (f : State → α) : Option α :=
  match o with
  | .next t => some (f t)
  | .fault _ => none
  | .refused _ => none

/-! One move of each command, with the values of file 95. -/

theorem test_modexp_wide_squares :
    after (exec .modexp (demoCmd .modexp 0xFFFFFFFFFFFFFFFE#64 0xFFFFFFFFFFFFFFFF#64 0xFFFFFFFFFFFFFFFF#64))
      (fun t => (t.res0, t.statusWord)) = some (0xFFFFFFFFFFFFFFFE#64, 0x2#64) := by decide +kernel
theorem test_modexp_unreduced_one :
    after (exec .modexp (demoCmd .modexp 7#64 0#64 1#64)) (fun t => (t.res0, t.res1)) = some (1#64, 5#64) := by
  decide

theorem test_primality_square : after (exec .primality (demoCmd .primality 49#64 0#64 0#64)) State.res0 = some 0#64 := by
  decide
theorem test_primality_prime : after (exec .primality (demoCmd .primality 7919#64 0#64 0#64)) State.res0 = some 1#64 := by
  decide

theorem test_primegen_no_range_check :
    after (exec .primegen (demoRun { Run.fresh .primegen 0#64 0#64 0#64 with stage := .findP, draw := .answered 7#64 }))
      (fun t => (t.res0, t.statusWord)) = some (7#64, 0x2#64) := by decide
theorem test_primegen_draws_again :
    after (exec .primegen
      (demoRun { Run.fresh .primegen 0#64 0#64 0#64 with stage := .findP, draw := .answered 1073741825#64 }))
      (fun t => (t.rngPort, t.statusWord)) = some (some (0x40000000#64, 0x80000000#64), 0x1#64) := by decide

theorem test_gcd_zero_operand : after (exec .gcd (demoCmd .gcd 0#64 5#64 0#64)) State.res0 = some 5#64 := by
  decide
theorem test_gcd_top :
    after (exec .gcd (demoCmd .gcd 0xFFFFFFFFFFFFFFFF#64 0xFFFFFFFF#64 0#64)) State.res0 = some 0xFFFFFFFF#64 := by
  decide

theorem test_lcm_wraps :
    after (exec .lcm (demoCmd .lcm 3#64 0xFFFFFFFFFFFFFFFF#64 0#64)) (fun t => (t.res0, t.statusWord))
      = some (0x5555555555555554#64, 0xA#64) := by decide
theorem test_lcm_div_zero :
    after (exec .lcm (demoCmd .lcm 0#64 0#64 0#64)) (fun t => (t.res0, t.statusWord)) = some (4#64, 0x204#64) := by
  decide

theorem test_modinv_textbook :
    after (exec .modinv (demoCmd .modinv 65537#64 780#64 0#64)) (fun t => (t.res0, t.statusWord))
      = some (413#64, 0x2#64) := by decide
theorem test_modinv_none :
    after (exec .modinv (demoCmd .modinv 2#64 4#64 0#64)) State.statusWord = some 0x12#64 := by decide

theorem test_genkey_small_primes :
    after (exec .genkey (demoRun { Run.fresh .genkey 0#64 0#64 0#64 with stage := .findQ 2#64, draw := .answered 2#64 }))
      (fun t => (t.res0, t.res1, t.res2, t.statusWord)) = some (2#64, 2#64, 6#64, 0x2#64) := by decide
theorem test_genkey_goes_on_to_q :
    after (exec .genkey (demoRun { Run.fresh .genkey 0#64 0#64 0#64 with stage := .findP, draw := .answered 7919#64 }))
      (fun t => (t.running.map Run.stage, t.rngPort.isSome)) = some (some (.findQ 7919#64), true) := by decide

theorem test_encrypt_textbook :
    after (exec .encrypt (demoRun { Run.fresh .encrypt 65#64 0#64 0#64 with stage := .exponentiate 61#64 53#64 }))
      (fun t => (t.res0, t.res1, t.res2, t.statusWord)) = some (61#64, 53#64, 2790#64, 0x2#64) := by decide
theorem test_encrypt_info_before_result :
    after (exec .encrypt
      (demoRun { Run.fresh .encrypt 65#64 0#64 0#64 with stage := .findQ 61#64, draw := .answered 53#64 }))
      (fun t => (t.infos, t.busy, t.res2)) = some ([⟨61#64, 53#64, 3233#64⟩], true, 6#64) := by decide

theorem test_decrypt_textbook :
    after (exec .decrypt (demoCmd .decrypt 61#64 53#64 2790#64)) (fun t => (t.res0, t.res1, t.statusWord))
      = some (65#64, 5#64, 0x2#64) := by decide
theorem test_decrypt_exponent_zero :
    after (exec .decrypt (demoCmd .decrypt 2#64 2#64 3#64)) State.res0 = some 1#64 := by decide

/-! The host: program P3's ignored commands and P5's illegal one (file 95), and a platform access of four bytes. -/

theorem test_halted_ignores_commands :
    after (step { demoHalted with script := [.cmd 0x1#64], schedule := [.host] }) State.statusWord = some 0x104#64 ∧
    after (step { demoHalted with script := [.cmd 0xA#64], schedule := [.host] }) State.statusWord = some 0x104#64 := by
  decide
theorem test_illegal_command_halts :
    after (step (demoLine (.cmd 0x11#64))) (fun t => (t.statusWord, t.res0)) = some (0x304#64, 4#64) := by decide
theorem test_accept : after (step (demoLine (.cmd 0x1#64))) State.statusWord = some 0x1#64 := by decide
theorem test_bus_refused : step (demoLine (.busRead 0 4)) = .refused .busAccessSize := rfl

/-- Each of the nine words, placed at reset, is run by the very next step. -/
theorem test_placed_words_run : ∀ i ∈ [Instr.modexp, .primality, .primegen, .gcd, .lcm, .modinv, .genkey, .encrypt,
      .decrypt], ((State.reset.withFetchWord 64 (opcodeOf i).toNat).running.map Run.op = some i) := by decide

/-! Witnesses: states and operands that meet the hypotheses of each statement, clause by clause. -/

/-- The Lucas test with the base `a` for a prime whose predecessor has no prime factor but 2 and 3. -/
theorem prime_by_lucas (p a : Word) (i j : Nat) (hm : p ≠ 0#64) (hf : p.toNat - 1 = 2 ^ i * 3 ^ j)
    (h0 : (p - 1#64).toNat = p.toNat - 1) (h2 : (p.toNat - 1) / 2 = ((p - 1#64) / 2#64).toNat)
    (h3 : (p.toNat - 1) / 3 = ((p - 1#64) / 3#64).toNat) (hn : (p - 1#64) / 3#64 ≠ 0#64)
    (h : modexpRec a p 64 (p - 1#64) = 1#64 ∧ modexpRec a p 64 ((p - 1#64) / 2#64) ≠ 1#64 ∧
      modexpRec a p 64 ((p - 1#64) / 3#64) ≠ 1#64) : Nat.Prime p.toNat := by
  have hp (e : Word) (he : e ≠ 0#64) : (a.toNat : ZMod p.toNat) ^ e.toNat = 1 ↔ modexpRec a p 64 e = 1#64 := by
    have hz := ZMod.natCast_eq_natCast_iff (a.toNat ^ e.toNat) 1 p.toNat
    push_cast at hz
    have h1 : 1 < p.toNat := by
      by_contra hle
      exact hn (BitVec.eq_of_toNat_eq (by rw [← h3]; simp; omega))
    rw [hz, ← BitVec.toNat_inj, modexpRec_toNat a p hm 64 e e.isLt, if_neg he, Nat.ModEq, Nat.mod_eq_of_lt h1]
    rfl
  have hn2 : (p - 1#64) / 2#64 ≠ 0#64 := by
    rw [word_ne_zero_iff, ← h2]
    rw [word_ne_zero_iff, ← h3] at hn
    omega
  have hn1 : p - 1#64 ≠ 0#64 := by
    rw [word_ne_zero_iff, h0]
    rw [word_ne_zero_iff, ← h3] at hn
    omega
  refine lucas_primality _ (a.toNat : ZMod p.toNat) (h0 ▸ (hp _ hn1).2 h.1) fun q hq hd => ?_
  rw [hf] at hd
  rcases (Nat.Prime.dvd_mul hq).1 hd with hd | hd
  · rw [(Nat.prime_dvd_prime_iff_eq hq Nat.prime_two).1 (hq.dvd_of_dvd_pow hd), h2]
    exact mt (hp _ hn2).1 h.2.1
  · rw [(Nat.prime_dvd_prime_iff_eq hq Nat.prime_three).1 (hq.dvd_of_dvd_pow hd), h3]
    exact mt (hp _ hn).1 h.2.2

/-- The primes `2^11 * 3^12 + 1` and `2^26 * 3^3 + 1` lie in the draw range. -/
theorem prime_p : Nat.Prime (1088391169#64).toNat :=
  prime_by_lucas 1088391169#64 11#64 11 12 (by decide) (by decide) (by decide) (by decide) (by decide) (by decide)
    (by decide +kernel)
theorem prime_q : Nat.Prime (1811939329#64).toNat :=
  prime_by_lucas 1811939329#64 13#64 26 3 (by decide) (by decide) (by decide) (by decide) (by decide) (by decide)
    (by decide +kernel)
theorem duty_p : PrimeInDuty 1088391169#64 := ⟨prime_p, by decide, by decide⟩
theorem duty_q : PrimeInDuty 1811939329#64 := ⟨prime_q, by decide, by decide⟩

/-- A prime `p` for which `(p - 1) * (p - 1)` is a multiple of 2^64. -/
theorem prime_wrapping : Nat.Prime (77309411329#64).toNat :=
  prime_by_lucas 77309411329#64 7#64 33 2 (by decide) (by decide) (by decide) (by decide) (by decide) (by decide)
    (by decide +kernel)

theorem witness_RegisterBytesAreLittleEndian :
    demo.byteAt 0 = 0x01#8 ∧ demo.byteAt 7 = 0x00#8 ∧ demo.byteAt (8 * 7 + 0) = 0x06#8 ∧
    { demo with res2 := 0xAB00000000000000#64 }.byteAt (8 * 7 + 7) = 0xAB#8 := by decide

theorem witness_BusAcceptsExactlyWholeWords :
    (demoLine (.busWrite 8 4 0#64)).nextAgent = .host ∧ (demoLine (.busRead 8 4)).nextAgent = .host ∧
    (¬∃ i : BitVec 3, 4 = 8 ∧ 8 = Config.base + 8 * i.toNat) ∧
    (demoLine (.busWrite (Config.base + 8 * (7#3).toNat) 8 0#64)).script =
      [.busWrite (Config.base + 8 * (7#3).toNat) 8 0#64] ∧
    (demoLine (.busRead (Config.base + 8 * (0#3).toNat) 8)).script = [.busRead (Config.base + 8 * (0#3).toNat) 8] := by
  refine ⟨rfl, rfl, by simp, rfl, rfl⟩

theorem witness_StepRunsTheLatchedCommand :
    (demoCmd .gcd 12#64 18#64 0#64).nextAgent = .core ∧
    (demoCmd .gcd 12#64 18#64 0#64).running = some (Run.fresh .gcd 12#64 18#64 0#64) ∧
    decodeTableWord 64 4 = some .gcd ∧ decodeTableWord 4 9 = some .decrypt := by decide

theorem witness_CommandWriteAcceptsOrFaults :
    demo.busy = false ∧ demo.fatal = false ∧ 9#64 = encode .decrypt ∧
    (∀ i ∈ [Instr.modexp, .primality, .primegen, .gcd, .lcm, .modinv, .genkey, .encrypt, .decrypt], 10#64 ≠ encode i) ∧
    (demoLine (.cmd 9#64)).nextAgent = .host ∧ (demoLine (.cmd 9#64)).script = [.cmd 9#64] := by decide

theorem witness_CommandWritesIgnoredWhileBusyOrHalted :
    (demoCmd .gcd 12#64 18#64 0#64).busy = true ∧ demoHalted.fatal = true ∧
    { demoHalted with script := [.cmd 0xA#64], schedule := [.host] }.nextAgent = .host ∧
    { demoCmd .gcd 1#64 2#64 3#64 with script := [.cmd 4#64], schedule := [.host] }.nextAgent = .host := by
  decide

theorem witness_ModexpResult :
    (demoCmd .modexp 2#64 20#64 17#64).running = some (Run.fresh .modexp 2#64 20#64 17#64) ∧ 17#64 ≠ 0#64 := by
  decide

theorem witness_ZeroModulusHalts :
    (demoCmd .modexp 5#64 3#64 0#64).running = some (Run.fresh .modexp 5#64 3#64 0#64) ∧
    (demoCmd .decrypt 4294967296#64 4294967296#64 7#64).running =
      some (Run.fresh .decrypt 4294967296#64 4294967296#64 7#64) ∧
    4294967296#64 * 4294967296#64 = 0#64 := by decide

theorem witness_DivZeroHalts :
    (demoCmd .lcm 0#64 0#64 9#64).running = some (Run.fresh .lcm 0#64 0#64 9#64) ∧
    (demoCmd .decrypt 1#64 1#64 0#64).running = some (Run.fresh .decrypt 1#64 1#64 0#64) := by decide

/-- Each of the three cases of rule R51, at the least modulus it allows. -/
theorem witness_ModexpFunctionValue :
    (2#64 ≠ 0#64 ∧ 2 ≤ (2#64).toNat ∧ modexp 0#64 0#64 2#64 = some 0#64) ∧
    (1#64 ≠ 0#64 ∧ 7#64 ≠ 0#64 ∧ modexp 7#64 0#64 1#64 = some 1#64) ∧
    (¬(2 ≤ (1#64).toNat) ∧ modexp 0#64 0#64 1#64 = some 0#64) ∧ modexp 1#64 1#64 1#64 = some 0#64 := by
  decide

theorem witness_ModexpLoopFormAgrees :
    17#64 ≠ 0#64 ∧ 2#64 ≠ 0#64 ∧ modexpLoop 2#64 20#64 17#64 64 1#64 = 16#64 := by decide

theorem witness_PrimalityResult :
    (demoCmd .primality 7919#64 0#64 0#64).running = some (Run.fresh .primality 7919#64 0#64 0#64) := by
  decide

theorem witness_PrimegenCompletesOnPrime :
    (demoRun { Run.fresh .primegen 0#64 0#64 0#64 with stage := .findP, draw := .answered 1811939329#64 }).running =
      some { Run.fresh .primegen 0#64 0#64 0#64 with stage := .findP, draw := .answered 1811939329#64 } ∧
    Nat.Prime (1811939329#64).toNat := ⟨rfl, prime_q⟩

theorem witness_PrimegenDrawsUntilPrime :
    (demoCmd .primegen 0#64 0#64 0#64).running = some (Run.fresh .primegen 0#64 0#64 0#64) ∧
    (demoRun { Run.fresh .primegen 0#64 0#64 0#64 with stage := .findP, draw := dutyRequest }).running =
      some { Run.fresh .primegen 0#64 0#64 0#64 with stage := .findP, draw := dutyRequest } ∧
    ¬Nat.Prime (1073741824#64).toNat := ⟨rfl, rfl, by norm_num⟩

theorem witness_GcdResult :
    (demoCmd .gcd 0#64 0#64 0#64).running = some (Run.fresh .gcd 0#64 0#64 0#64) := by decide

theorem witness_LcmResult :
    (demoCmd .lcm 0#64 5#64 0#64).running = some (Run.fresh .lcm 0#64 5#64 0#64) ∧ (0#64 ≠ 0#64 ∨ 5#64 ≠ 0#64) ∧
    (demoCmd .lcm 4294967296#64 4294967296#64 0#64).running =
      some (Run.fresh .lcm 4294967296#64 4294967296#64 0#64) := by decide

/-- The greatest product that fits, `(2^32 + 1) * (2^32 - 1) = 2^64 - 1`. -/
theorem witness_GcdTimesLcmIsProduct :
    (4294967297#64 ≠ 0#64) ∧ (4294967297#64).toNat * (4294967295#64).toNat < 2 ^ 64 ∧
    lcmWord 4294967297#64 4294967295#64 = .value 0xFFFFFFFFFFFFFFFF#64 false := by decide

theorem witness_ModinvResult :
    (demoCmd .modinv 3#64 7#64 0#64).running = some (Run.fresh .modinv 3#64 7#64 0#64) ∧ 7#64 ≠ 0#64 ∧
    Nat.gcd (3#64).toNat (7#64).toNat = 1 ∧ Nat.gcd (0#64).toNat (1#64).toNat = 1 := by decide

theorem witness_ModinvWithoutInverse :
    (demoCmd .modinv 5#64 0#64 0#64).running = some (Run.fresh .modinv 5#64 0#64 0#64) ∧
    2 ≤ (2#64).toNat ∧ Nat.gcd (0#64).toNat (2#64).toNat ≠ 1 := by decide

theorem witness_ModinvRoundTrips :
    2 ≤ (2#64).toNat ∧ Nat.gcd (7#64).toNat (2#64).toNat = 1 ∧ modinv 7#64 2#64 = some 1#64 := by decide

/-- A run of the key search in each stage and with each kind of draw. -/
theorem witness_KeySearchMoves :
    ((Run.fresh .genkey 0#64 0#64 0#64).stage = .start ∧ (Run.fresh .genkey 0#64 0#64 0#64).draw = .idle) ∧
    { Run.fresh .encrypt 0#64 0#64 0#64 with stage := .findQ 1811939329#64, draw := dutyRequest }.draw =
      .requested 0x40000000#64 0x80000000#64 ∧
    ¬Nat.Prime (1073741825#64).toNat ∧ Nat.Prime (1088391169#64).toNat ∧
    { Run.fresh .encrypt 0#64 0#64 0#64 with stage := .findP, draw := .answered 1088391169#64 }.draw =
      .answered 1088391169#64 := by
  refine ⟨⟨rfl, rfl⟩, rfl, by norm_num, prime_p, rfl⟩

/-- The guard holds for a pair of primes far outside the draw range, whose wrapped `L` is 0, and not for the primes 2
and 2, whose `L` is 1. -/
theorem witness_KeyGuardIsAConjunction :
    (Nat.Prime (77309411329#64).toNat ∧
      (demoRun { Run.fresh .encrypt 0#64 0#64 0#64 with
          stage := .findQ 77309411329#64, draw := .answered 77309411329#64 }).running =
        some { Run.fresh .encrypt 0#64 0#64 0#64 with
          stage := .findQ 77309411329#64, draw := .answered 77309411329#64 } ∧
      lcmWord (77309411329#64 - 1#64) (77309411329#64 - 1#64) = .value 0#64 true ∧
      (0#64).toNat ≤ 65537 ∧ Nat.gcd 65537 (0#64).toNat ≠ 1) ∧
    (Nat.Prime (2#64).toNat ∧ lcmWord (2#64 - 1#64) (2#64 - 1#64) = .value 1#64 false ∧
      ¬((1#64).toNat ≤ 65537 ∧ Nat.gcd 65537 (1#64).toNat ≠ 1)) := by
  refine ⟨⟨prime_wrapping, rfl, by decide, by decide, by decide⟩, ⟨Nat.prime_two, by decide, by decide⟩⟩

theorem witness_GenkeyResultInDuty :
    PrimeInDuty 1811939329#64 ∧ PrimeInDuty 1811939329#64 ∧
    (demoRun { Run.fresh .genkey 0#64 0#64 0#64 with
        stage := .findQ 1811939329#64, draw := .answered 1811939329#64 }).running =
      some { Run.fresh .genkey 0#64 0#64 0#64 with stage := .findQ 1811939329#64, draw := .answered 1811939329#64 } :=
  ⟨duty_q, duty_q, rfl⟩

theorem witness_EncryptEmitsInfoInDuty :
    PrimeInDuty 1088391169#64 ∧ PrimeInDuty 1811939329#64 ∧
    (demoRun { Run.fresh .encrypt 42#64 0#64 0#64 with
        stage := .findQ 1088391169#64, draw := .answered 1811939329#64 }).running =
      some { Run.fresh .encrypt 42#64 0#64 0#64 with
        stage := .findQ 1088391169#64, draw := .answered 1811939329#64 } := ⟨duty_p, duty_q, rfl⟩

theorem witness_EncryptResult :
    Nat.Prime (1088391169#64).toNat ∧ Nat.Prime (1811939329#64).toNat ∧
    (demoRun { Run.fresh .encrypt 42#64 0#64 0#64 with stage := .exponentiate 1088391169#64 1811939329#64 }).running =
      some { Run.fresh .encrypt 42#64 0#64 0#64 with stage := .exponentiate 1088391169#64 1811939329#64 } :=
  ⟨prime_p, prime_q, rfl⟩

theorem witness_DecryptResult :
    (demoCmd .decrypt 61#64 53#64 2790#64).running = some (Run.fresh .decrypt 61#64 53#64 2790#64) ∧
    ¬(61#64 = 1#64 ∧ 53#64 = 1#64) ∧ 61#64 * 53#64 ≠ 0#64 ∧
    wrappedLcm (61#64 - 1#64).toNat (53#64 - 1#64).toNat = 780 ∧ Nat.gcd 65537 780 = 1 := by decide

theorem witness_DecryptWithoutInverse :
    (demoCmd .decrypt 1#64 5#64 3#64).running = some (Run.fresh .decrypt 1#64 5#64 3#64) ∧
    ¬(1#64 = 1#64 ∧ 5#64 = 1#64) ∧ 1#64 * 5#64 ≠ 0#64 ∧
    Nat.gcd 65537 (wrappedLcm (1#64 - 1#64).toNat (5#64 - 1#64).toNat) ≠ 1 ∧
    Nat.gcd 65537 (wrappedLcm (1074020357#64 - 1#64).toNat (2147483647#64 - 1#64).toNat) = 65537 := by decide

/-- The textbook key of file 95, with its least and its greatest message. -/
theorem witness_DecryptRecoversTheMessage :
    Nat.Prime (61#64).toNat ∧ Nat.Prime (53#64).toNat ∧ 61#64 ≠ 53#64 ∧ (61#64).toNat * (53#64).toNat < 2 ^ 64 ∧
    Nat.gcd 65537 (Nat.lcm ((61#64).toNat - 1) ((53#64).toNat - 1)) = 1 ∧
    (65#64).toNat < (61#64).toNat * (53#64).toNat ∧ modexp 65#64 65537#64 (61#64 * 53#64) = some 2790#64 ∧
    (demoCmd .decrypt 61#64 53#64 2790#64).running = some (Run.fresh .decrypt 61#64 53#64 2790#64) ∧
    (3232#64).toNat < (61#64).toNat * (53#64).toNat ∧ modexp 0#64 65537#64 (61#64 * 53#64) = some 0#64 := by
  refine ⟨by norm_num, by norm_num, ?_⟩
  decide

/-- PRIMEGEN accepted, two answers that fail and a prime one to come, and the turns written out. -/
def primegenStart : State :=
  { demoCmd .primegen 0#64 0#64 0#64 with
    answers := [1073741824#64, 1073741825#64, 1088391169#64]
    schedule := [.core, .source, .core, .source, .core, .source, .core] }

/-- ENCRYPT accepted, with answers of the kind program P2 has (file 95): two that fail, a prime, one that fails, a
prime. -/
def encryptStart : State :=
  { demoCmd .encrypt 42#64 0#64 0#64 with
    answers := [1073741824#64, 1073741825#64, 1088391169#64, 2147483646#64, 1811939329#64]
    schedule := [.core, .source, .core, .source, .core, .source, .core, .source, .core, .source, .core, .core] }

theorem witness_PrimegenRunCompletes :
    (∀ x ∈ [1073741824#64, 1073741825#64], ¬Nat.Prime x.toNat) ∧ Nat.Prime (1088391169#64).toNat ∧
    primegenStart.running = some (Run.fresh .primegen 0#64 0#64 0#64) ∧
    primegenStart.answers = [1073741824#64, 1073741825#64] ++ 1088391169#64 :: [] ∧
    primegenStart.schedule = .core :: drawTurns ([1073741824#64, 1073741825#64].length + 1) ++ [] := by
  refine ⟨?_, prime_p, rfl, rfl, rfl⟩
  intro x hx
  simp only [List.mem_cons, List.not_mem_nil, or_false] at hx
  rcases hx with rfl | rfl <;> norm_num

theorem witness_EncryptRunCompletes :
    encryptStart.running = some (Run.fresh .encrypt 42#64 0#64 0#64) ∧ PrimeInDuty 1088391169#64 ∧ PrimeInDuty 1811939329#64 ∧
    (∀ x ∈ [1073741824#64, 1073741825#64], ¬Nat.Prime x.toNat) ∧ (∀ y ∈ [2147483646#64], ¬Nat.Prime y.toNat) ∧
    encryptStart.answers = [1073741824#64, 1073741825#64] ++ 1088391169#64 :: ([2147483646#64] ++ 1811939329#64 :: []) ∧
    encryptStart.schedule = .core :: drawTurns ([1073741824#64, 1073741825#64].length + [2147483646#64].length + 2)
      ++ .core :: [] := by
  refine ⟨rfl, duty_p, duty_q, witness_PrimegenRunCompletes.1, ?_, rfl, rfl⟩
  intro y hy
  simp only [List.mem_cons, List.not_mem_nil, or_false] at hy
  rcases hy with rfl; norm_num

theorem witness_ResetAbandonsTheCommand :
    { demoHalted with script := [.reset], schedule := [.host] }.nextAgent = .host ∧
    { demoCmd .gcd 1#64 2#64 3#64 with script := [.reset], schedule := [.host] }.script = [.reset] := by decide

theorem witness_OperandWritesDoNotDisturbTheRun :
    (1#3 = 0#3 ∨ 1#3 = 1#3 ∨ 1#3 = 2#3) ∧
    after (exec .gcd (demoCmd .gcd 12#64 18#64 0#64)) State.res0 = some 6#64 := by decide

/-- The invariant holds of `demo`, of a run of the key search, and of a halted core. -/
theorem witness_inv :
    demo.Inv ∧ demoHalted.Inv ∧ (demoCmd .lcm 3#64 0xFFFFFFFFFFFFFFFF#64 0#64).Inv ∧
    (demoRun { Run.fresh .primegen 0#64 0#64 0#64 with stage := .findP, draw := dutyRequest }).Inv := by
  simp [State.Inv, demo, demoHalted, demoCmd, demoRun, State.reset, State.oneCondition, State.faultLegal,
    State.tracesLegal, Run.legal, Run.fresh, drawsNumbers, dutyRequest, Draw.seeking, Config.primeLo, Config.primeHi]

theorem witness_StatusIsOneOfNineWords : demoHalted.Inv ∧ demoHalted.regRead 4#3 = 0x104#64 :=
  ⟨witness_inv.2.1, by decide⟩

theorem witness_InvariantKeptByEveryStep :
    (demoCmd .lcm 3#64 0xFFFFFFFFFFFFFFFF#64 0#64).Inv ∧
    ∃ t, step (demoCmd .lcm 3#64 0xFFFFFFFFFFFFFFFF#64 0#64) = .next t :=
  ⟨witness_inv.2.2.1, _, rfl⟩

/-- A step of each kind rule R16 lists: accept, an illegal word, complete, a fault, reset. -/
theorem witness_ConditionChangesAsListed :
    after (step (demoLine (.cmd 9#64))) State.condition = some .running ∧
    after (step (demoLine (.cmd 0#64))) State.condition = some .halted ∧
    after (step (demoCmd .lcm 0#64 5#64 0#64)) State.condition = some .finished ∧
    after (step (demoCmd .lcm 0#64 0#64 0#64)) State.condition = some .halted ∧
    after (step { demoHalted with script := [.reset], schedule := [.host] }) State.condition = some .idle := by
  decide

theorem witness_HaltedUntilReset :
    demoHalted.Inv ∧ demoHalted.fatal = true ∧ ¬demoHalted.resetsNext ∧ step demoHalted = .next demoHalted := by
  refine ⟨witness_inv.2.1, rfl, ?_, rfl⟩
  rintro ⟨_, rest, h⟩
  exact absurd h (by simp [demoHalted, demo, State.reset])

theorem witness_InfoOnlyFromEncrypt :
    after (step (demoRun
        { Run.fresh .encrypt 65#64 0#64 0#64 with stage := .findQ 61#64, draw := .answered 53#64 }))
      State.infos = some [⟨61#64, 53#64, 3233#64⟩] := by decide

theorem witness_DrawsOnlyFromSearchingCommands :
    (demoRun { Run.fresh .primegen 0#64 0#64 0#64 with stage := .findP, draw := dutyRequest }).Inv ∧
    after (step { demoRun { Run.fresh .primegen 0#64 0#64 0#64 with stage := .findP, draw := dutyRequest } with
        answers := [7#64] }) State.draws = some [⟨0x40000000#64, 0x80000000#64, 7#64⟩] :=
  ⟨witness_inv.2.2.2, by decide⟩

theorem witness_RegistersChangeOnlyWhereWritten :
    (demoCmd .lcm 3#64 0xFFFFFFFFFFFFFFFF#64 0#64).Inv ∧
    ¬(demoCmd .lcm 3#64 0xFFFFFFFFFFFFFFFF#64 0#64).resetsNext ∧
    after (step (demoCmd .lcm 3#64 0xFFFFFFFFFFFFFFFF#64 0#64)) (fun t => (t.res0, t.condition))
      = some (0x5555555555555554#64, .finished) := by
  refine ⟨witness_inv.2.2.1, ?_, by decide⟩
  rintro ⟨h, _⟩
  exact absurd h (by decide)

theorem witness_FlagsRiseOnlyForTheirCommands :
    (demoCmd .lcm 3#64 0xFFFFFFFFFFFFFFFF#64 0#64).ovf = false ∧
    after (step (demoCmd .lcm 3#64 0xFFFFFFFFFFFFFFFF#64 0#64)) State.ovf = some true ∧
    (demoCmd .modinv 2#64 4#64 0#64).noinv = false ∧
    after (step (demoCmd .modinv 2#64 4#64 0#64)) State.noinv = some true := by decide

theorem witness_SixCommandsAlwaysEnd :
    (∀ i ∈ [Instr.modexp, .primality, .gcd, .lcm, .modinv, .decrypt], drawsNumbers i = false) ∧
    (demoCmd .decrypt 0#64 5#64 1#64).running = some (Run.fresh .decrypt 0#64 5#64 1#64) := by decide

theorem witness_SixCommandsNeverFault :
    (demoRun { Run.fresh .primegen 0#64 0#64 0#64 with stage := .findP, draw := dutyRequest }).Inv ∧
    Instr.primegen ∈ [Instr.primality, .primegen, .gcd, .modinv, .genkey, .encrypt] :=
  ⟨witness_inv.2.2.2, by decide⟩

/-- The same LCM latched in two states that differ in an operand register and in the host's script. -/
theorem witness_CommandsAreIndependent :
    (demoCmd .lcm 3#64 0xFFFFFFFFFFFFFFFF#64 0#64).Inv ∧
    { demoCmd .lcm 3#64 0xFFFFFFFFFFFFFFFF#64 0#64 with opa := 99#64, script := [.wait] }.Inv ∧
    ∃ t, exec .lcm { demoCmd .lcm 3#64 0xFFFFFFFFFFFFFFFF#64 0#64 with opa := 99#64, script := [.wait] } = .next t :=
  ⟨witness_inv.2.2.1, witness_inv.2.2.1, exec_next .lcm _⟩

theorem witness_ReadsReturnTheRegisters :
    (demoLine (.rd .opa)).nextAgent = .host ∧ (demoLine (.rd .opa)).script = [.rd .opa] ∧
    (demoLine (.rdTo .res2 0)).nextAgent = .host ∧ (demoLine (.rdTo .res2 0)).script = [.rdTo .res2 0] ∧
    after (step (demoLine (.rdTo .res2 0))) (fun t => (t.reads, t.vars)) = some ([⟨7#3, 6#64⟩], [(0, 6#64)]) := by
  decide

theorem witness_WritesReachOnlyOperandsAndCommand :
    (demoLine (.wr .opb (.lit 9#64))).nextAgent = .host ∧
    (demoLine (.wr .opb (.lit 9#64))).script = [.wr .opb (.lit 9#64)] ∧
    (demoLine (.wr .opb (.lit 9#64))).valueOf (.lit 9#64) = some 9#64 ∧
    after (step (demoLine (.wr .opb (.lit 9#64)))) State.opb = some 9#64 := by decide

/-- Variable 0 bound twice: the latest binding stands first. -/
theorem witness_BoundVariableIsWritten :
    { demoLine (.wr .opa (.name 0)) with vars := [(1, 7#64), (0, 8#64), (0, 9#64)] }.nextAgent = .host ∧
    [(1, 7#64), (0, 8#64), (0, 9#64)] = [(1, 7#64)] ++ (0, 8#64) :: [(0, 9#64)] ∧
    (∀ b ∈ [(1, 7#64)], b.1 ≠ 0) ∧
    after (step { demoLine (.wr .opa (.name 0)) with vars := [(1, 7#64), (0, 8#64), (0, 9#64)] }) State.opa
      = some 8#64 := by decide

theorem witness_UnboundVariableStopsTheScript :
    { demoLine (.wr .opa (.name 0)) with vars := [(1, 7#64)] }.nextAgent = .host ∧ (∀ b ∈ [(1, 7#64)], b.1 ≠ 0) ∧
    step { demoLine (.wr .opa (.name 0)) with vars := [(1, 7#64)] } = .fault .unboundScriptName := by
  refine ⟨by decide, by decide, rfl⟩

theorem witness_WaitPollsUntilNotBusy :
    { demoCmd .gcd 1#64 2#64 3#64 with script := [.wait], schedule := [.host] }.nextAgent = .host ∧
    (demoCmd .gcd 1#64 2#64 3#64).busy = true ∧ (demoLine .wait).nextAgent = .host ∧ (demoLine .wait).busy = false := by
  decide

theorem witness_SourceAnswersTheOutstandingDraw :
    { demoRun { Run.fresh .primegen 0#64 0#64 0#64 with stage := .findP, draw := dutyRequest } with
      answers := [7#64], schedule := [.source] }.nextAgent = .source ∧
    (demoRun { Run.fresh .primegen 0#64 0#64 0#64 with stage := .findP, draw := dutyRequest }).answers = [] ∧
    { demo with schedule := [.source] }.nextAgent = .source ∧ demo.rngPort = none := by decide

end Sys2Proof.Tests
end

section
/-! What one step can do to the machine, said once: the host leaves the core's side alone but for an accepted or an
illegal command word and a reset, the core makes one of `CoreMove`'s moves, the source answers. Every safety statement
below is a case split on `StepMove`. -/

namespace Sys2Proof.Machine

/-- The result of one step from `s`, by what it does to the core's side of the state. -/
inductive StepMove (s : State) : State → Prop where
  /-- only operand registers, written by the host, and what stands outside the core changes -/
  | quiet (a b c : Word) (script : List Line) (vars : List (Nat × Word)) (schedule : List Agent)
      (reads : List ReadRecord) (hop : s.nextAgent ≠ .host → a = s.opa ∧ b = s.opb ∧ c = s.opc) :
      StepMove s { s with
        opa := a, opb := b, opc := c, script := script, vars := vars, schedule := schedule, reads := reads }
  /-- the host presents a legal command word to an IDLE or FINISHED core (rule R82) -/
  | accept (w : Word) (op : Instr) (ha : s.nextAgent = .host) (hb : s.busy = false) (hf : s.fatal = false)
      (hd : decode w = .ok op) : StepMove s (accept op (dropLine (popTurn s)))
  /-- the host presents an illegal command word to an IDLE or FINISHED core (rule R97) -/
  | illegal (w : Word) (why : Illegal) (ha : s.nextAgent = .host) (hb : s.busy = false) (hf : s.fatal = false)
      (hd : decode w = .bad why) : StepMove s (raiseFatal .illegalCmd (dropLine (popTurn s)))
  /-- the host resets the core (rule R108) -/
  | reset (hr : s.resetsNext) : StepMove s (resetEdge (dropLine (popTurn s)))
  /-- the core moves the running command (rule R83) -/
  | core {t : State} (r : Run) (ha : s.nextAgent = .core) (hr : s.running = some r)
      (hm : CoreMove r.op r (popTurn s) t) : StepMove s t
  /-- the source answers the outstanding draw (rule R23) -/
  | answer (r : Run) (lo hi v : Word) (rest : List Word) (ha : s.nextAgent = .source) (hr : s.running = some r)
      (hd : r.draw = .requested lo hi) (hans : s.answers = v :: rest) :
      StepMove s (deliver r lo hi v rest (popTurn s))

/-- A turn that is taken and changes nothing else. -/
theorem stepMove_popTurn (s : State) : StepMove s (popTurn s) :=
  .quiet s.opa s.opb s.opc s.script s.vars s.schedule.tail s.reads fun _ => ⟨rfl, rfl, rfl⟩

/-- On the host's turn a change outside the core is quiet, whatever it makes of the operand registers. -/
theorem stepMove_hostQuiet {s : State} (ha : s.nextAgent = .host) (a b c : Word) (script : List Line)
    (vars : List (Nat × Word)) (schedule : List Agent) (reads : List ReadRecord) :
    StepMove s { s with
      opa := a, opb := b, opc := c, script := script, vars := vars, schedule := schedule, reads := reads } :=
  .quiet a b c script vars schedule reads fun h => absurd ha h

theorem presentCommand_stepMove {s : State} (ha : s.nextAgent = .host) (w : Word) :
    StepMove s (presentCommand w (dropLine (popTurn s))) := by
  rcases presentCommand_cases w (dropLine (popTurn s)) with ⟨_, h⟩ | ⟨hb, hf, op, hd, h⟩ | ⟨hb, hf, ⟨why, hd⟩, h⟩
  · rw [h]; exact stepMove_hostQuiet ha ..
  · rw [h]; exact .accept w op ha hb hf hd
  · rw [h]; exact .illegal w why ha hb hf hd

theorem performTxn_stepMove {s : State} (ha : s.nextAgent = .host) (x : Txn) :
    StepMove s (performTxn x (dropLine (popTurn s))) := by
  rcases performTxn_cases x (dropLine (popTurn s)) with ⟨i, h⟩ | ⟨v, h | h | h | h | h⟩ <;> rw [h]
  case inr.inr.inr.inr.inl => exact presentCommand_stepMove ha v
  all_goals exact stepMove_hostQuiet ha ..

theorem hostTurn_stepMove {s t : State} (ha : s.nextAgent = .host) (h : hostTurn (popTurn s) = .next t) :
    StepMove s t := by
  rcases hostTurn_cases h with ⟨_, rfl⟩ | ⟨l, rest, hs, hl⟩
  · exact stepMove_popTurn s
  rcases runLine_cases hl with ⟨x, rfl⟩ | ⟨r, n, v, rfl⟩ | ⟨x, rfl⟩ | ⟨rfl, rfl⟩ | rfl
  · exact performTxn_stepMove ha x
  · exact stepMove_hostQuiet ha ..
  · exact stepMove_hostQuiet ha ..
  · exact .reset ⟨ha, rest, hs⟩
  · exact stepMove_hostQuiet ha ..

/-- Every step that answers a next state is one of `StepMove`'s. -/
theorem step_stepMove {s t : State} (h : step s = .next t) : StepMove s t := by
  rcases step_cases h with ⟨ha, hh⟩ | ⟨ha, r, hr, he⟩ | ⟨_, _, rfl⟩ | ⟨ha, hs⟩
  · exact hostTurn_stepMove ha hh
  · exact .core r ha hr (exec_coreMove hr he)
  · exact stepMove_popTurn s
  · obtain ⟨r, lo, hi, hr, hd, ⟨_, rfl⟩ | ⟨v, rest, hans, rfl⟩⟩ := sourceTurn_cases hs
    · exact stepMove_popTurn s
    · exact .answer r lo hi v rest ha hr hd hans

end Sys2Proof.Machine
end

section
/-! The invariant of the machine: each operation on the core keeps it, so every step does. -/

namespace Sys2Proof.Machine

theorem State.Inv.one {s : State} (h : s.Inv) : s.oneCondition := h.1
theorem State.Inv.busy_eq {s : State} (h : s.Inv) : s.busy = s.running.isSome := h.2.1
theorem State.Inv.done_of_ovf {s : State} (h : s.Inv) : s.ovf = true → s.doneFlag = true := h.2.2.1
theorem State.Inv.done_of_noinv {s : State} (h : s.Inv) : s.noinv = true → s.doneFlag = true := h.2.2.2.1
theorem State.Inv.fault {s : State} (h : s.Inv) : s.faultLegal := h.2.2.2.2.1
theorem State.Inv.legal {s : State} (h : s.Inv) {r : Run} (hr : s.running = some r) : r.legal := h.2.2.2.2.2.1 r hr
theorem State.Inv.traces {s : State} (h : s.Inv) : s.tracesLegal := h.2.2.2.2.2.2

theorem State.Inv.busy_of_running {s : State} (h : s.Inv) {r : Run} (hr : s.running = some r) : s.busy = true := by
  rw [h.busy_eq, hr]; rfl

/-- While a command is latched the core is neither FINISHED nor HALTED (rules R16, R20). -/
theorem State.Inv.not_done_not_fatal {s : State} (h : s.Inv) {r : Run} (hr : s.running = some r) :
    s.doneFlag = false ∧ s.fatal = false :=
  h.one.1 (h.busy_of_running hr)

/-- A core that is not HALTED shows `FAULT = 0` (rule R19). -/
theorem State.Inv.fault_zero {s : State} (h : s.Inv) (hf : s.fatal = false) : s.fault = 0x00#8 := by
  simpa [State.faultLegal, hf] using h.fault

theorem faultLegal_of_not_fatal {s : State} (hf : s.fatal = false) (h0 : s.fault = 0x00#8) : s.faultLegal := by
  simp [State.faultLegal, hf, h0]

theorem State.reset_inv : State.reset.Inv := by
  simp [State.Inv, State.reset, State.oneCondition, State.faultLegal, State.tracesLegal]

theorem fresh_legal (op : Instr) (a b c : Word) : (Run.fresh op a b c).legal := by
  simp [Run.legal]

theorem accept_inv {s : State} (op : Instr) (h : s.Inv) (hf : s.fatal = false) : (accept op s).Inv := by
  refine ⟨⟨fun _ => ⟨rfl, hf⟩, nofun⟩, rfl, nofun, nofun, faultLegal_of_not_fatal hf (h.fault_zero hf), ?_, h.traces⟩
  rintro r ⟨⟩
  exact fresh_legal ..

/-- A fault needs nothing of the state before it but legal traces (rules R85, R94). -/
theorem raiseFatal_inv {s : State} (code : FaultCode) (h : s.tracesLegal) : (raiseFatal code s).Inv := by
  refine ⟨⟨nofun, nofun⟩, rfl, nofun, nofun, ?_, nofun, h⟩
  cases code <;> simp [State.faultLegal, FaultCode.code]

theorem resetEdge_inv {s : State} (h : s.tracesLegal) : (resetEdge s).Inv :=
  ⟨⟨nofun, nofun⟩, rfl, nofun, nofun, faultLegal_of_not_fatal rfl rfl, nofun, h⟩

theorem complete_inv {s : State} (r : Run) (out : Results) (h : s.Inv) (hf : s.fatal = false) :
    (complete s r out).Inv :=
  ⟨⟨nofun, fun _ => hf⟩, rfl, fun _ => rfl, fun _ => rfl, faultLegal_of_not_fatal hf (h.fault_zero hf), nofun, h.traces⟩

theorem goOn_inv {s : State} {r r' : Run} (h : s.Inv) (hr : s.running = some r) (hl : r'.legal) : (goOn s r').Inv := by
  refine ⟨h.one, h.busy_of_running hr, h.done_of_ovf, h.done_of_noinv, h.fault, ?_, h.traces⟩
  rintro r'' ⟨⟩
  exact hl

theorem emitInfo_inv {s : State} {p q : Word} (h : s.Inv) (hp : isPrime p = true) (hq : isPrime q = true) :
    (emitInfo p q (p * q) s).Inv := by
  refine ⟨h.one, h.busy_eq, h.done_of_ovf, h.done_of_noinv, h.fault, fun _ => h.legal, h.traces.1, ?_⟩
  intro e he
  rcases List.mem_append.1 he with he | he
  · exact h.traces.2 e he
  · rw [List.mem_singleton.1 he]; exact ⟨hp, hq, rfl⟩

theorem findsKey_iff {op : Instr} : findsKey op = true ↔ op = .genkey ∨ op = .encrypt := by
  simp [findsKey]

theorem drawsNumbers_of_findsKey {op : Instr} (h : findsKey op = true) : drawsNumbers op = true := by
  rcases findsKey_iff.1 h with rfl | rfl <;> rfl

/-- The four working states a legal run can be in (rules R21, R55, R69, R73). -/
theorem Run.legal.cases {r : Run} (h : r.legal) :
    (r.stage = .start ∧ r.draw = .idle ∧ r.accOvf = false) ∨
    (r.stage = .findP ∧ drawsNumbers r.op = true ∧ r.draw.seeking ∧ r.accOvf = false) ∨
    (∃ p, r.stage = .findQ p ∧ findsKey r.op = true ∧ r.draw.seeking ∧ isPrime p = true) ∨
    (∃ p q, r.stage = .exponentiate p q ∧ r.op = .encrypt ∧ r.draw = .idle ∧ isPrime p = true ∧ isPrime q = true) := by
  obtain ⟨_, hst⟩ := h
  cases hs : r.stage <;> simpa [hs] using hst

theorem Run.legal.noinv {r : Run} (h : r.legal) : r.accNoinv = false := h.1

theorem legal_of_findP {r : Run} (hs : r.stage = .findP) (hn : r.accNoinv = false) (hw : drawsNumbers r.op = true)
    (hd : r.draw.seeking) (ho : r.accOvf = false) : r.legal := by
  simp [Run.legal, hs, hn, hw, hd, ho]

theorem legal_of_findQ {r : Run} {p : Word} (hs : r.stage = .findQ p) (hn : r.accNoinv = false)
    (hk : findsKey r.op = true) (hd : r.draw.seeking) (hp : isPrime p = true) : r.legal := by
  simp [Run.legal, hs, hn, hk, hd, hp]

theorem legal_of_exponentiate {r : Run} {p q : Word} (hs : r.stage = .exponentiate p q) (hn : r.accNoinv = false)
    (he : r.op = .encrypt) (hd : r.draw = .idle) (hp : isPrime p = true) (hq : isPrime q = true) : r.legal := by
  simp [Run.legal, hs, hn, he, hd, hp, hq]

theorem requestDraw_seeking (r : Run) : (requestDraw r).draw.seeking := ⟨rfl, rfl⟩

/-- In `findQ p` of a legal run, `p` is prime. -/
theorem Run.legal.prime_p {r : Run} {p : Word} (h : r.legal) (hs : r.stage = .findQ p) : isPrime p = true := by
  obtain ⟨_, hst⟩ := h
  rw [hs] at hst
  exact hst.2.2

/-- A run that has a draw outstanding is one of a command that draws, and asks for `[2^30, 2^31)` (rule R23). -/
theorem Run.legal.of_requested {r : Run} {lo hi : Word} (h : r.legal) (hd : r.draw = .requested lo hi) :
    drawsNumbers r.op = true ∧ lo = Config.primeLo ∧ hi = Config.primeHi := by
  rcases h.cases with ⟨_, hi', _⟩ | ⟨_, hw, hk, _⟩ | ⟨_, _, hf, hk, _⟩ | ⟨_, _, _, _, hi', _⟩
  · simp [hd] at hi'
  · rw [hd] at hk; exact ⟨hw, hk⟩
  · rw [hd] at hk; exact ⟨drawsNumbers_of_findsKey hf, hk⟩
  · simp [hd] at hi'

/-- Before the first draw nothing has been accumulated (rules R55, R82). -/
theorem Run.legal.begin {r : Run} (h : r.legal) (hw : drawsNumbers r.op = true) (hd : r.draw = .idle)
    (hs : r.op = .encrypt → ∀ p q, r.stage ≠ .exponentiate p q) :
    (requestDraw { r with stage := .findP }).legal := by
  refine legal_of_findP rfl h.noinv hw (requestDraw_seeking _) ?_
  rcases h.cases with ⟨_, _, ho⟩ | ⟨_, _, _, ho⟩ | ⟨_, _, _, hk, _⟩ | ⟨p, q, he, hop, _⟩
  · exact ho
  · exact ho
  · simp [hd, Draw.seeking] at hk
  · exact absurd he (hs hop p q)

/-- An answer in hand can be discarded for another draw (rule R55). -/
theorem Run.legal.drawAgain {r : Run} {v : Word} (h : r.legal) (hd : r.draw = .answered v) :
    (requestDraw r).legal := by
  rcases h.cases with ⟨_, hi, _⟩ | ⟨hs, hw, _, ho⟩ | ⟨p, hs, hk, _, hp⟩ | ⟨_, _, _, _, hi, _⟩
  · simp [hd] at hi
  · exact legal_of_findP hs h.noinv hw (requestDraw_seeking r) ho
  · exact legal_of_findQ hs h.noinv hk (requestDraw_seeking r) hp
  · simp [hd] at hi

/-- The source's answer takes the place of the request (rule R23). -/
theorem Run.legal.answer {r : Run} {lo hi : Word} (v : Word) (h : r.legal) (hd : r.draw = .requested lo hi) :
    { r with draw := .answered v }.legal := by
  rcases h.cases with ⟨_, hi', _⟩ | ⟨hs, hw, _, ho⟩ | ⟨p, hs, hk, _, hp⟩ | ⟨_, _, _, _, hi', _⟩
  · simp [hd] at hi'
  · exact legal_of_findP hs h.noinv hw trivial ho
  · exact legal_of_findQ hs h.noinv hk trivial hp
  · simp [hd] at hi'

theorem deliver_inv {s : State} {r : Run} {lo hi : Word} (v : Word) (rest : List Word) (h : s.Inv)
    (hr : s.running = some r) (hd : r.draw = .requested lo hi) : (deliver r lo hi v rest s).Inv := by
  refine ⟨h.one, h.busy_of_running hr, h.done_of_ovf, h.done_of_noinv, h.fault, ?_, ?_, h.traces.2⟩
  · rintro r' ⟨⟩
    exact (h.legal hr).answer v hd
  · intro d hm
    rcases List.mem_append.1 hm with hm | hm
    · exact h.traces.1 d hm
    · rw [List.mem_singleton.1 hm]; exact ((h.legal hr).of_requested hd).2

/-- A command ends in a state that meets the invariant where it began in one. -/
theorem endsFrom_inv {s u : State} (hu : endsFrom s u) (h : s.Inv) : u.Inv := by
  rcases hu with rfl | rfl
  · exact h
  · exact h

/-- Taking a free value leaves `FATAL` as it is. -/
theorem endsFrom_fatal {s u : State} (hu : endsFrom s u) : u.fatal = s.fatal := by
  rcases hu with rfl | rfl <;> rfl

/-- Every move of the core keeps the invariant. -/
theorem coreMove_inv {s t : State} {r : Run} (h : s.Inv) (hr : s.running = some r) (hm : CoreMove r.op r s t) :
    t.Inv := by
  have hl : r.legal := h.legal hr
  cases hm with
  | wait => exact h
  | begin hw hd hs => exact goOn_inv h hr (hl.begin hw hd hs)
  | discard v hw hd hv => exact goOn_inv h hr (hl.drawAgain hd)
  | gotP v hk hd hv hs => exact goOn_inv h hr (legal_of_findQ rfl hl.noinv hk (requestDraw_seeking _) hv)
  | redraw p q l o hk hs hd hv _ _ =>
    exact goOn_inv h hr (legal_of_findQ hs hl.noinv hk (requestDraw_seeking _) (hl.prime_p hs))
  | announce p q l o he hs hd hv _ _ =>
    have hp : isPrime p = true := hl.prime_p hs
    exact goOn_inv (emitInfo_inv h hp hv) hr (legal_of_exponentiate rfl hl.noinv he rfl hp hv)
  | finish u r' out hu _ _ =>
    exact complete_inv r' out (endsFrom_inv hu h) ((endsFrom_fatal hu).trans (h.not_done_not_fatal hr).2)
  | fault u code hu _ => exact raiseFatal_inv code (endsFrom_inv hu h).traces
  | keyFault => exact raiseFatal_inv _ h.traces
  | cipherFault => exact raiseFatal_inv _ h.traces

/-- The invariant says nothing about the turns and the lines left. -/
theorem popTurn_inv {s : State} (h : s.Inv) : (popTurn s).Inv := h

theorem dropLine_inv {s : State} (h : s.Inv) : (dropLine s).Inv := h

theorem stepMove_inv {s t : State} (h : s.Inv) (hm : StepMove s t) : t.Inv := by
  cases hm with
  | quiet => exact h
  | accept w op _ _ hf _ => exact accept_inv op (dropLine_inv (popTurn_inv h)) hf
  | illegal => exact raiseFatal_inv _ h.traces
  | reset => exact resetEdge_inv h.traces
  | core r _ hr hc => exact coreMove_inv (popTurn_inv h) hr hc
  | answer r lo hi v rest _ hr hd _ => exact deliver_inv v rest (popTurn_inv h) hr hd

/-- Settles O41: a case split on what the step does to the core's side, one lemma for each operation. -/
theorem invariantKeptByEveryStep : Obligations.InvariantKeptByEveryStep := by
  unfold Obligations.InvariantKeptByEveryStep
  exact fun s t h hs => stepMove_inv h (step_stepMove hs)

/-- Settles O40: each field of the reset state is its literal. -/
theorem invariantAtReset : Obligations.InvariantAtReset := by
  unfold Obligations.InvariantAtReset
  exact State.reset_inv

end Sys2Proof.Machine
end

section
/-! What a move of the core leaves alone, and the safety statements that follow from `StepMove`: events, draws,
registers, flags. -/

namespace Sys2Proof.Machine

/-- A move of the core leaves the operand registers, the draws made and the answers to come (rules R20, R23). -/
theorem coreMove_frame {i : Instr} {r : Run} {s t : State} (hm : CoreMove i r s t) :
    (t.opa = s.opa ∧ t.opb = s.opb ∧ t.opc = s.opc) ∧ t.draws = s.draws ∧ t.answers = s.answers := by
  cases hm with
  | finish u _ _ hu => rcases hu with rfl | rfl <;> exact ⟨⟨rfl, rfl, rfl⟩, rfl, rfl⟩
  | fault u _ hu => rcases hu with rfl | rfl <;> exact ⟨⟨rfl, rfl, rfl⟩, rfl, rfl⟩
  | _ => exact ⟨⟨rfl, rfl, rfl⟩, rfl, rfl⟩

/-- A move of the core emits nothing, or it is ENCRYPT's announcement of its two primes (rule R75). -/
theorem coreMove_infos {i : Instr} {r : Run} {s t : State} (hm : CoreMove i r s t) :
    t.infos = s.infos ∨ ∃ p q, i = .encrypt ∧ r.stage = .findQ p ∧ r.draw = .answered q ∧
      t.infos = s.infos ++ [⟨p, q, p * q⟩] ∧
      ∃ r', t.running = some r' ∧ r'.op = r.op ∧ r'.stage = .exponentiate p q := by
  cases hm with
  | announce p q l o he hs hd => exact .inr ⟨p, q, he, hs, hd, rfl, _, rfl, rfl, rfl⟩
  | finish u _ _ hu => rcases hu with rfl | rfl <;> exact .inl rfl
  | fault u _ hu => rcases hu with rfl | rfl <;> exact .inl rfl
  | _ => exact .inl rfl

/-- A move of the core leaves the results, or it completes the command (rules R34, R84). -/
theorem coreMove_results {i : Instr} {r : Run} {s t : State} (hm : CoreMove i r s t) :
    (t.res0 = s.res0 ∧ t.res1 = s.res1 ∧ t.res2 = s.res2) ∨
    (t.busy = false ∧ t.doneFlag = true ∧ t.fatal = s.fatal) := by
  cases hm with
  | finish u _ _ hu => exact .inr ⟨rfl, rfl, (complete_fatal ..).trans (endsFrom_fatal hu)⟩
  | fault u _ hu => rcases hu with rfl | rfl <;> exact .inl ⟨rfl, rfl, rfl⟩
  | _ => exact .inl ⟨rfl, rfl, rfl⟩

/-- A legal run has `ovf` accumulated only in the key search and after it (rules R17, R69). -/
theorem Run.legal.findsKey_of_accOvf {r : Run} (h : r.legal) (ho : r.accOvf = true) : findsKey r.op = true := by
  rcases h.cases with ⟨_, _, hf⟩ | ⟨_, _, _, hf⟩ | ⟨_, _, hk, _⟩ | ⟨_, _, _, he, _⟩
  · simp [ho] at hf
  · simp [ho] at hf
  · exact hk
  · rw [he]; rfl

/-- `OVF` after a move of a legal run was there before, or the command is one of rule R17's. -/
theorem coreMove_ovf {r : Run} {s t : State} (hl : r.legal) (hm : CoreMove r.op r s t) (ht : t.ovf = true) :
    s.ovf = true ∨ r.op ∈ [Instr.lcm, .genkey, .encrypt, .decrypt] := by
  cases hm with
  | finish u r' out _ ho _ =>
    rcases ho with ho | ho
    · have hk : findsKey r.op = true := hl.findsKey_of_accOvf (ho ▸ ht)
      rcases findsKey_iff.1 hk with hop | hop <;> simp [hop]
    · exact .inr ho
  | fault => cases ht
  | keyFault => cases ht
  | cipherFault => cases ht
  | _ => exact .inl ht

/-- `NOINV` after a move of a legal run was there before, or the command is one of rule R18's. -/
theorem coreMove_noinv {r : Run} {s t : State} (hl : r.legal) (hm : CoreMove r.op r s t) (ht : t.noinv = true) :
    s.noinv = true ∨ r.op ∈ [Instr.modinv, .decrypt] := by
  cases hm with
  | finish u r' out _ _ hn =>
    refine .inr (hn.resolve_left fun hn => ?_)
    have : r'.accNoinv = true := ht
    simp [hn, hl.noinv] at this
  | fault => cases ht
  | keyFault => cases ht
  | cipherFault => cases ht
  | _ => exact .inl ht

/-- Settles O44: of all moves only ENCRYPT's announcement touches the events. -/
theorem infoOnlyFromEncrypt : Obligations.InfoOnlyFromEncrypt := by
  unfold Obligations.InfoOnlyFromEncrypt
  intro s t h
  cases step_stepMove h with
  | core r ha hr hm =>
    rcases coreMove_infos hm with h | ⟨p, q, hop, hs, hd, hi, r', hr', hop', hs'⟩
    · exact .inl h
    · exact .inr ⟨ha, r, p, q, hr, hop, hs, hd, hi, r', hr', hop'.trans hop, hs'⟩
  | _ => exact .inl rfl

/-- Settles O45: only the source's answer touches the draws, and a legal run asks for `[2^30, 2^31)`. -/
theorem drawsOnlyFromSearchingCommands : Obligations.DrawsOnlyFromSearchingCommands := by
  unfold Obligations.DrawsOnlyFromSearchingCommands
  intro s t hinv h
  cases step_stepMove h with
  | core r ha hr hm => exact .inl (coreMove_frame hm).2
  | answer r lo hi v rest ha hr hd hans =>
    obtain ⟨hw, rfl, rfl⟩ := (hinv.legal hr).of_requested hd
    exact .inr ⟨ha, r, v, hr, hw, hd, hans, rfl⟩
  | _ => exact .inl ⟨rfl, rfl⟩

/-- Settles O47: flags are raised only by a completing move, from the accumulators of a legal run. -/
theorem flagsRiseOnlyForTheirCommands : Obligations.FlagsRiseOnlyForTheirCommands := by
  unfold Obligations.FlagsRiseOnlyForTheirCommands
  intro s t hinv h
  cases step_stepMove h with
  | core r ha hr hm =>
    have hl : r.legal := hinv.legal hr
    refine ⟨fun hs ht => ⟨r, hr, ?_⟩, fun hs ht => ⟨r, hr, ?_⟩⟩
    · exact (coreMove_ovf hl hm ht).resolve_left (by simp [hs])
    · exact (coreMove_noinv hl hm ht).resolve_left (by simp [hs])
  | accept => exact ⟨nofun, nofun⟩
  | illegal => exact ⟨nofun, nofun⟩
  | reset => exact ⟨nofun, nofun⟩
  | quiet => exact ⟨fun hs ht => absurd ht (by simp [hs]), fun hs ht => absurd ht (by simp [hs])⟩
  | answer => exact ⟨fun hs ht => absurd ht (by simp [hs]), fun hs ht => absurd ht (by simp [hs])⟩

end Sys2Proof.Machine
end

section
/-! The four conditions of the core: what `State.condition` tells, and which steps change it (rule R16). -/

namespace Sys2Proof.Machine

theorem condition_halted {s : State} (hf : s.fatal = true) : s.condition = .halted := by
  simp [State.condition, hf]

theorem condition_running {s : State} (hf : s.fatal = false) (hb : s.busy = true) : s.condition = .running := by
  simp [State.condition, hf, hb]

theorem condition_finished {s : State} (hf : s.fatal = false) (hb : s.busy = false) (hd : s.doneFlag = true) :
    s.condition = .finished := by
  simp [State.condition, hf, hb, hd]

theorem condition_idle {s : State} (hf : s.fatal = false) (hb : s.busy = false) (hd : s.doneFlag = false) :
    s.condition = .idle := by
  simp [State.condition, hf, hb, hd]

/-- Where no two of `BUSY`, `DONE` and `FATAL` are set, each condition fixes all three (rule R16). -/
theorem State.oneCondition.condition_iff {s : State} (h : s.oneCondition) :
    (s.condition = .idle ↔ s.busy = false ∧ s.doneFlag = false ∧ s.fatal = false) ∧
    (s.condition = .running ↔ s.busy = true ∧ s.doneFlag = false ∧ s.fatal = false) ∧
    (s.condition = .finished ↔ s.busy = false ∧ s.doneFlag = true ∧ s.fatal = false) ∧
    (s.condition = .halted ↔ s.busy = false ∧ s.doneFlag = false ∧ s.fatal = true) := by
  obtain ⟨hbusy, hdone⟩ := h
  cases hf : s.fatal with
  | true =>
    have hb : s.busy = false := by simpa [hf] using hbusy
    have hd : s.doneFlag = false := by simpa [hf] using hdone
    simp [condition_halted hf, hb, hd]
  | false =>
    cases hb : s.busy with
    | true => simp [condition_running hf hb, (hbusy hb).1]
    | false =>
      cases hd : s.doneFlag with
      | true => simp [condition_finished hf hb hd]
      | false => simp [condition_idle hf hb hd]

/-- A core that is neither RUNNING nor HALTED is IDLE or FINISHED. -/
theorem condition_of_free {s : State} (hb : s.busy = false) (hf : s.fatal = false) :
    s.condition = .idle ∨ s.condition = .finished := by
  cases hd : s.doneFlag
  · exact .inl (condition_idle hf hb hd)
  · exact .inr (condition_finished hf hb hd)

theorem State.Inv.condition_of_running {s : State} (h : s.Inv) {r : Run} (hr : s.running = some r) :
    s.condition = .running :=
  condition_running (h.not_done_not_fatal hr).2 (h.busy_of_running hr)

/-- A move of the core leaves the condition, completes or faults (rules R84, R85). -/
theorem coreMove_condition {i : Instr} {r : Run} {s t : State} (hf : s.fatal = false) (hm : CoreMove i r s t) :
    t.condition = s.condition ∨ t.condition = .finished ∨ t.condition = .halted := by
  cases hm with
  | finish u r' out hu => exact .inr (.inl (condition_finished ((endsFrom_fatal hu).trans hf) rfl rfl))
  | fault => exact .inr (.inr (condition_halted rfl))
  | keyFault => exact .inr (.inr (condition_halted rfl))
  | cipherFault => exact .inr (.inr (condition_halted rfl))
  | _ => exact .inl rfl

theorem decodeOpcode_eq_ok_iff : ∀ (op : BitVec 4) (i : Instr), decodeOpcode op = .ok i ↔ op = opcodeOf i := by
  intro op i
  cases i <;> revert op <;> decide

/-- A command word is its upper bits and its opcode field (rule R40). -/
theorem word_eq_append (w : Word) : w = w.extractLsb' 4 60 ++ w.extractLsb' 0 4 := by
  rw [BitVec.extractLsb'_append_extractLsb'_eq_extractLsb' (by rfl)]
  simp

/-- The decoder answers a command exactly for its word (rule R40). -/
theorem decode_eq_ok_iff (w : Word) (i : Instr) : decode w = .ok i ↔ w = encode i := by
  constructor
  · intro h
    unfold decode at h
    split at h
    · next hz =>
      have hop : w.extractLsb' 0 4 = opcodeOf i := (decodeOpcode_eq_ok_iff _ i).1 h
      have hw : w = w.extractLsb' 4 60 ++ w.extractLsb' 0 4 := (word_eq_append w)
      rw [hw, hz, hop]; rfl
    · cases h
  · rintro rfl
    cases i <;> decide

theorem presentCommand_ok {s : State} {w : Word} {op : Instr} (hb : s.busy = false) (hf : s.fatal = false)
    (hd : decode w = .ok op) : presentCommand w s = accept op s := by
  simp [presentCommand, hb, hf, hd]

theorem presentCommand_bad {s : State} {w : Word} {why : Illegal} (hb : s.busy = false) (hf : s.fatal = false)
    (hd : decode w = .bad why) : presentCommand w s = raiseFatal .illegalCmd s := by
  simp [presentCommand, hb, hf, hd]

/-- The decoder refuses a word exactly where it is no command's (rule R43). -/
theorem ne_encode_of_decode_bad {w : Word} {why : Illegal} (h : decode w = .bad why) (i : Instr) : w ≠ encode i := by
  intro hw
  rw [(decode_eq_ok_iff w i).2 hw] at h
  cases h

/-- Settles O46: only a completing move writes the results, and only the host the operands. -/
theorem registersChangeOnlyWhereWritten : Obligations.RegistersChangeOnlyWhereWritten := by
  unfold Obligations.RegistersChangeOnlyWhereWritten
  intro s t hinv hnr h
  cases step_stepMove h with
  | quiet a b c _ _ _ _ hop => exact ⟨.inl ⟨rfl, rfl, rfl⟩, hop⟩
  | accept w op ha => exact ⟨.inl ⟨rfl, rfl, rfl⟩, fun hn => absurd ha hn⟩
  | illegal w why ha => exact ⟨.inl ⟨rfl, rfl, rfl⟩, fun hn => absurd ha hn⟩
  | reset hr => exact absurd hr hnr
  | answer => exact ⟨.inl ⟨rfl, rfl, rfl⟩, fun _ => ⟨rfl, rfl, rfl⟩⟩
  | core r ha hr hm =>
    refine ⟨(coreMove_results hm).imp_right fun ⟨hb, hd, hf⟩ => ?_, fun _ => (coreMove_frame hm).1⟩
    exact ⟨ha, hinv.condition_of_running hr,
      condition_finished (hf.trans (hinv.not_done_not_fatal hr).2) hb hd⟩

/-- Settles O42: the conditions by cases on the three bits, the changes by cases on what the step does. -/
theorem conditionChangesAsListed : Obligations.ConditionChangesAsListed := by
  unfold Obligations.ConditionChangesAsListed
  intro s hinv
  obtain ⟨hidle, hrunning, hfinished, hhalted⟩ := hinv.one.condition_iff
  refine ⟨hidle, hrunning, hfinished, hhalted, ?_, ?_, fun _ => condition_halted rfl, condition_idle rfl rfl rfl, ?_⟩
  · rintro op (h | h)
    · exact condition_running (hidle.1 h).2.2 rfl
    · exact condition_running (hfinished.1 h).2.2 rfl
  · exact fun r out h => condition_finished (hrunning.1 h).2.2 rfl rfl
  intro t h
  cases step_stepMove h with
  | quiet => exact .inl rfl
  | answer => exact .inl rfl
  | reset hr => exact .inr (.inl ⟨hr, condition_idle rfl rfl rfl⟩)
  | accept w op ha hb hf hd =>
    exact .inr (.inr (.inl ⟨ha, condition_of_free hb hf, w, (presentCommand_ok (s := dropLine (popTurn s)) hb hf hd).symm,
      .inl ⟨condition_running hf rfl, op, (decode_eq_ok_iff w op).1 hd⟩⟩))
  | illegal w why ha hb hf hd =>
    exact .inr (.inr (.inl ⟨ha, condition_of_free hb hf, w, (presentCommand_bad (s := dropLine (popTurn s)) hb hf hd).symm,
      .inr ⟨condition_halted rfl, ne_encode_of_decode_bad hd⟩⟩))
  | core r ha hr hm =>
    have hf : (popTurn s).fatal = false := (hinv.not_done_not_fatal hr).2
    exact (coreMove_condition hf hm).imp_right fun h =>
      .inr (.inr ⟨ha, hinv.condition_of_running hr, h⟩)

end Sys2Proof.Machine
end

section
/-! `STATUS` as a read returns it (rules R15, R32), the other register words, and the tuples of transactions. -/

namespace Sys2Proof.Machine

theorem regRead_status (s : State) : s.regRead 4#3 = s.statusWord := rfl

/-- `STATUS` bit by bit (rule R15). -/
theorem statusWordOf_getLsbD (x : BitVec 8) (n o f d b : Bool) (k : Nat) :
    (statusWordOf x n o f d b).getLsbD k =
      if k = 0 then b else if k = 1 then d else if k = 2 then f else if k = 3 then o else if k = 4 then n
      else decide (8 ≤ k) && x.getLsbD (k - 8) := by
  unfold statusWordOf
  change BitVec.getLsbD (w := 48 + 8 + 3 + 1 + 1 + 1 + 1 + 1) _ k = _
  simp only [BitVec.getLsbD_append]
  match k with
  | 0 => simp
  | 1 => simp
  | 2 => simp
  | 3 => simp
  | 4 => simp
  | k + 5 =>
    have hx : (decide (k - 3 < 8) && x.getLsbD (k - 3)) = x.getLsbD (k - 3) := by
      by_cases hk : k - 3 < 8
      · simp [hk]
      · simp [hk, BitVec.getLsbD_of_ge x (k - 3) (Nat.le_of_not_lt hk)]
    have h3 : (!decide (k < 3)) = decide (3 ≤ k) := by rw [← decide_not]; simp only [Nat.not_lt]
    simp [hx, h3]

/-- From bit 5 on `STATUS` holds the fault code at bits 15:8 and zeros. -/
theorem statusWord_upper (s : State) (k : Nat) (hk : 5 ≤ k) :
    s.statusWord.getLsbD k = (decide (8 ≤ k) && s.fault.getLsbD (k - 8)) := by
  rw [State.statusWord, statusWordOf_getLsbD, if_neg (by omega), if_neg (by omega), if_neg (by omega),
    if_neg (by omega), if_neg (by omega)]

theorem statusWord_reservedLow (s : State) : s.statusWord.extractLsb' 5 3 = 0#3 := by
  apply BitVec.eq_of_getLsbD_eq
  intro i hi
  have hlow : ¬8 ≤ 5 + i := by omega
  simp [BitVec.getLsbD_extractLsb', statusWord_upper, hlow]

theorem statusWord_fault (s : State) : s.statusWord.extractLsb' 8 8 = s.fault := by
  apply BitVec.eq_of_getLsbD_eq
  intro i hi
  have hupper : 5 ≤ 8 + i := by omega
  simp [statusWord_upper, hupper, hi]

theorem statusWord_reservedHigh (s : State) : s.statusWord.extractLsb' 16 48 = 0#48 := by
  apply BitVec.eq_of_getLsbD_eq
  intro i hi
  have hupper : 5 ≤ 16 + i := by omega
  have hbeyond : 8 ≤ 16 + i - 8 := by omega
  simp [BitVec.getLsbD_extractLsb', statusWord_upper, hupper, BitVec.getLsbD_of_ge _ _ hbeyond]

theorem statusWord_busy (s : State) : s.statusWord.getLsbD 0 = s.busy := by
  simp only [State.statusWord, statusWordOf_getLsbD]; rfl

theorem statusWord_done (s : State) : s.statusWord.getLsbD 1 = s.doneFlag := by
  simp only [State.statusWord, statusWordOf_getLsbD]; rfl

theorem statusWord_fatal (s : State) : s.statusWord.getLsbD 2 = s.fatal := by
  simp only [State.statusWord, statusWordOf_getLsbD]; rfl

theorem statusWord_ovf (s : State) : s.statusWord.getLsbD 3 = s.ovf := by
  simp only [State.statusWord, statusWordOf_getLsbD]; rfl

theorem statusWord_noinv (s : State) : s.statusWord.getLsbD 4 = s.noinv := by
  simp only [State.statusWord, statusWordOf_getLsbD]; rfl

theorem State.Inv.flags_low {s : State} (h : s.Inv) (hd : s.doneFlag = false) : s.ovf = false ∧ s.noinv = false :=
  ⟨by simpa [hd] using h.done_of_ovf, by simpa [hd] using h.done_of_noinv⟩

/-- `STATUS` of a HALTED core: the fault code and `FATAL` (rules R15 to R19). -/
theorem State.Inv.statusWord_halted {s : State} (h : s.Inv) (hc : s.condition = .halted) :
    s.statusWord = 0x104#64 ∨ s.statusWord = 0x204#64 ∨ s.statusWord = 0x304#64 := by
  obtain ⟨hb, hd, hf⟩ := h.one.condition_iff.2.2.2.1 hc
  obtain ⟨ho, hn⟩ := h.flags_low hd
  have hcode : s.fault = 0x01#8 ∨ s.fault = 0x02#8 ∨ s.fault = 0x03#8 := by
    simpa [State.faultLegal, hf] using h.fault
  simp only [State.statusWord, hb, hd, hf, ho, hn]
  rcases hcode with hx | hx | hx <;> rw [hx] <;> decide

/-- `STATUS` of a core that is not HALTED: `FAULT` and `FATAL` are 0. -/
theorem State.Inv.statusWord_of_not_fatal {s : State} (h : s.Inv) (hf : s.fatal = false) :
    s.statusWord = statusWordOf 0x00#8 s.noinv s.ovf false s.doneFlag s.busy := by
  rw [State.statusWord, h.fault_zero hf, hf]

/-- Settles O39: a HALTED core shows its code, a FINISHED one its two flags, any other no flag and no code. -/
theorem statusIsOneOfNineWords : Obligations.StatusIsOneOfNineWords := by
  unfold Obligations.StatusIsOneOfNineWords
  intro s h
  obtain ⟨hidle, hrunning, hfinished, -⟩ := h.one.condition_iff
  rw [regRead_status]
  cases hc : s.condition with
  | idle =>
    obtain ⟨hb, hd, hf⟩ := hidle.1 hc
    obtain ⟨ho, hn⟩ := h.flags_low hd
    rw [h.statusWord_of_not_fatal hf, hb, hd, ho, hn]; decide
  | running =>
    obtain ⟨hb, hd, hf⟩ := hrunning.1 hc
    obtain ⟨ho, hn⟩ := h.flags_low hd
    rw [h.statusWord_of_not_fatal hf, hb, hd, ho, hn]; decide
  | finished =>
    obtain ⟨hb, hd, hf⟩ := hfinished.1 hc
    rw [h.statusWord_of_not_fatal hf, hb, hd]
    cases s.ovf <;> cases s.noinv <;> decide
  | halted => rcases h.statusWord_halted hc with hw | hw | hw <;> simp [hw]

/-- Settles O36: the words by definition, `STATUS` bit by bit, and the two kinds of `rd` lines on the host's turn. -/
theorem readsReturnTheRegisters : Obligations.ReadsReturnTheRegisters := by
  unfold Obligations.ReadsReturnTheRegisters
  intro s
  refine ⟨rfl, rfl, rfl, rfl, rfl, rfl, rfl, statusWord_busy s, statusWord_done s, statusWord_fatal s,
    statusWord_ovf s, statusWord_noinv s, statusWord_reservedLow s, statusWord_fault s, statusWord_reservedHigh s,
    fun _ => rfl, fun r rest ha => ⟨fun hs => ?_, fun n hs => ?_⟩⟩
  · rw [step_host ha hs]; cases r <;> rfl
  · rw [step_host ha hs]; cases r <;> rfl

/-- Settles O55: the outputs are the fields, and the fields are the bits of `STATUS`. -/
theorem outputsAreStatusFields : Obligations.OutputsAreStatusFields := by
  unfold Obligations.OutputsAreStatusFields
  exact fun s => ⟨rfl, (statusWord_busy s).symm, (statusWord_done s).symm, (statusWord_fatal s).symm,
    (statusWord_fault s).symm⟩

/-- Settles O34: each field of the reset state is its literal, and `STATUS` of zero fields is 0. -/
theorem resetValues : Obligations.ResetValues := by
  unfold Obligations.ResetValues
  have hstatus : State.reset.regRead 4#3 = 0#64 := by decide
  exact ⟨rfl, rfl, rfl, rfl, rfl, rfl, hstatus, rfl, rfl, rfl, rfl, rfl, rfl⟩

/-- The offset of a word index gives the index back (rule R45). -/
theorem indexOfOffset_eight_mul (i : BitVec 3) : indexOfOffset (8 * i.toNat) = some i := by
  have hlt : 8 * i.toNat < 64 := by have := i.isLt; omega
  simp [indexOfOffset, hlt]

/-- A transaction and its tuple agree (rule R45). -/
theorem ofTuple_tuple (t : Txn) : Txn.ofTuple t.tuple = some t := by
  cases t <;> simp [Txn.tuple, Txn.ofTuple, indexOfOffset_eight_mul]

/-- Settles O4: the offsets by evaluation, the round trips by the lemmas above. -/
theorem hostTuplesRoundTrip : Obligations.HostTuplesRoundTrip := by
  unfold Obligations.HostTuplesRoundTrip
  exact ⟨by decide, ofIndex_index, ofTuple_tuple, fun _ _ => rfl, fun _ => rfl⟩

theorem step_source {s : State} (ha : s.nextAgent = .source) : step s = sourceTurn (popTurn s) := by
  simp [step, ha]

theorem sourceTurn_answer {s : State} {r : Run} {lo hi v : Word} {rest : List Word} (hr : s.running = some r)
    (hd : r.draw = .requested lo hi) (ha : s.answers = v :: rest) : sourceTurn s = .next (deliver r lo hi v rest s) := by
  simp [sourceTurn, hr, hd, ha]

theorem sourceTurn_silent {s : State} {r : Run} {lo hi : Word} (hr : s.running = some r)
    (hd : r.draw = .requested lo hi) (ha : s.answers = []) : sourceTurn s = .next s := by
  simp [sourceTurn, hr, hd, ha]

/-- With no request on the random-source port the source has no turn (rule R116). -/
theorem sourceTurn_refused {s : State} (h : s.rngPort = none) : sourceTurn s = .refused .answerWithoutRequest := by
  unfold State.rngPort at h
  unfold sourceTurn
  cases hr : s.running with
  | none => rfl
  | some r => cases hd : r.draw <;> simp_all [Draw.request?]

/-- Settles O52: one equation of the source's turn for an answer, for silence, and for no request. -/
theorem sourceAnswersTheOutstandingDraw : Obligations.SourceAnswersTheOutstandingDraw := by
  unfold Obligations.SourceAnswersTheOutstandingDraw
  intro s ha
  rw [step_source ha]
  exact ⟨fun r lo hi hr hd => ⟨fun v rest hans => sourceTurn_answer (s := popTurn s) hr hd hans,
    fun hans => sourceTurn_silent (s := popTurn s) hr hd hans⟩, fun h => sourceTurn_refused (s := popTurn s) h⟩

end Sys2Proof.Machine
end

section
/-! Trial division is exact (rules R52, R53), and the moves of PRIMEGEN up to its result (rules R23, R55, R57). -/

namespace Sys2Proof.Machine

/-- A number from 2 on with no divisor below an `i` past its square root is prime. -/
theorem prime_of_no_small_divisor {n i : Nat} (h2 : 2 ≤ n) (hno : ∀ d, 2 ≤ d → d < i → ¬d ∣ n) (hi : n < i * i) :
    Nat.Prime n := by
  refine Nat.prime_def_le_sqrt.2 ⟨h2, fun d hd hs => hno d hd ?_⟩
  have hdd : d * d ≤ n := Nat.le_sqrt.1 hs
  by_contra hlt
  have : i * i ≤ d * d := Nat.mul_self_le_mul_self (Nat.le_of_not_lt hlt)
  omega

/-- A remainder of 0 for a divisor from 2 on below the number: not prime. -/
theorem not_prime_of_mod_eq_zero {n d : Nat} (hd : 2 ≤ d) (hlt : d < n) (h : n % d = 0) : ¬Nat.Prime n :=
  Nat.not_prime_of_dvd_of_lt (Nat.dvd_of_mod_eq_zero h) hd hlt

/-- One turn of the loop of rule R52 tries `i` and `i + 2`; the other four divisors below `i + 6` are multiples of 2 or
3. -/
theorem no_divisor_below_next {n i : Nat} (h2 : n % 2 ≠ 0) (h3 : n % 3 ≠ 0) (hi : i % 6 = 5)
    (hno : ∀ d, 2 ≤ d → d < i → ¬d ∣ n) (h : n % i ≠ 0) (h' : n % (i + 2) ≠ 0) :
    ∀ d, 2 ≤ d → d < i + 6 → ¬d ∣ n := by
  have not_two {d : Nat} (hd : d % 2 = 0) : ¬d ∣ n := fun hdvd =>
    h2 (Nat.mod_eq_zero_of_dvd ((Nat.dvd_of_mod_eq_zero hd).trans hdvd))
  have not_three {d : Nat} (hd : d % 3 = 0) : ¬d ∣ n := fun hdvd =>
    h3 (Nat.mod_eq_zero_of_dvd ((Nat.dvd_of_mod_eq_zero hd).trans hdvd))
  intro d hd hlt
  by_cases hlow : d < i
  · exact hno d hd hlow
  obtain rfl | rfl | hm | hm : d = i ∨ d = i + 2 ∨ d % 2 = 0 ∨ d % 3 = 0 := by omega
  · exact fun hdvd => h (Nat.mod_eq_zero_of_dvd hdvd)
  · exact fun hdvd => h' (Nat.mod_eq_zero_of_dvd hdvd)
  · exact not_two hm
  · exact not_three hm

/-- The trial-division loop decides primality of a number without the divisors 2 and 3, once all divisors below `i` are
ruled out and the fuel reaches past the number (rules R52, R53). -/
theorem trialLoop_iff {n : Nat} (h1 : 1 < n) (h2 : n % 2 ≠ 0) (h3 : n % 3 ≠ 0) :
    ∀ fuel i, i % 6 = 5 → (∀ d, 2 ≤ d → d < i → ¬d ∣ n) → n < i + 6 * fuel →
      (trialLoop n fuel i = true ↔ Nat.Prime n) := by
  intro fuel
  induction fuel with
  | zero =>
    intro i hi hno hf
    have hii : i ≤ i * i := Nat.le_mul_self i
    simp [trialLoop, prime_of_no_small_divisor h1 hno (by omega)]
  | succ fuel ih =>
    intro i hi hno hf
    have h5 : 5 ≤ i := by omega
    unfold trialLoop
    split
    · next hle =>
      have hlt : i + 2 < n := by nlinarith
      split
      · next h => simp [not_prime_of_mod_eq_zero (by omega) (by omega) h]
      · next h =>
        split
        · next h' => simp [not_prime_of_mod_eq_zero (by omega) hlt h']
        · next h' => exact ih (i + 6) (by omega) (no_divisor_below_next h2 h3 hi hno h h') (by omega)
    · next hgt => simp [prime_of_no_small_divisor h1 hno (by omega)]

/-- Trial division is exact for every 64-bit candidate (rule R53). -/
theorem isPrime_iff (n : Word) : isPrime n = true ↔ Nat.Prime n.toNat := by
  unfold isPrime
  split
  · next h => simp [show ¬Nat.Prime n.toNat from fun hp => absurd hp.two_le (by omega)]
  · next h1 =>
    split
    · next h => rcases h with h | h <;> simp [h, Nat.prime_two, Nat.prime_three]
    · next h23 =>
      split
      · next h => simp [not_prime_of_mod_eq_zero (by omega) (by omega) h]
      · next h2 =>
        split
        · next h => simp [not_prime_of_mod_eq_zero (by omega) (by omega) h]
        · next h3 =>
          refine trialLoop_iff (by omega) h2 h3 n.toNat 5 rfl ?_ (by omega)
          intro d hd hd5 hdvd
          obtain rfl | rfl | rfl : d = 2 ∨ d = 3 ∨ d = 4 := by omega
          all_goals omega

theorem isPrime_eq_false {v : Word} (h : ¬Nat.Prime v.toNat) : isPrime v = false := by
  simpa using (isPrime_iff v).not.2 h

theorem primegenMove_idle {s : State} {r : Run} (hd : r.draw = .idle) :
    primegenMove s r = goOn s (requestDraw { r with stage := .findP }) := by
  simp [primegenMove, hd]

theorem primegenMove_requested {s : State} {r : Run} {lo hi : Word} (hd : r.draw = .requested lo hi) :
    primegenMove s r = s := by
  simp [primegenMove, hd]

theorem primegenMove_notPrime {s : State} {r : Run} {v : Word} (hd : r.draw = .answered v) (hv : isPrime v = false) :
    primegenMove s r = goOn s (requestDraw r) := by
  simp [primegenMove, hd, hv]

theorem primegenMove_prime {s : State} {r : Run} {v : Word} (hd : r.draw = .answered v) (hv : isPrime v = true) :
    primegenMove s r = complete s r (Results.one v) := by
  simp [primegenMove, hd, hv]

/-- A move of `exec` as PRIMEGEN on a running command (rule R56). -/
theorem exec_primegen {s : State} {r : Run} (hr : s.running = some r) :
    exec .primegen s = .next (primegenMove s r) :=
  onRun_some hr _

/-- Settles O17: one equation of `primegenMove` for each kind of draw. -/
theorem primegenDrawsUntilPrime : Obligations.PrimegenDrawsUntilPrime := by
  unfold Obligations.PrimegenDrawsUntilPrime
  intro s a b c
  refine ⟨fun hr => ?_, fun lo hi hr => ?_, fun v hr hv => ?_⟩
  · rw [exec_primegen hr, primegenMove_idle rfl]; rfl
  · rw [exec_primegen hr, primegenMove_requested rfl]
  · rw [exec_primegen hr, primegenMove_notPrime rfl (isPrime_eq_false hv)]; rfl

end Sys2Proof.Machine
end

section
/-! A write to an operand register commutes with every move of the core (rule R20): an update that leaves the latched
command and the free values alone and commutes with each operation a move is made of, commutes with the move. -/

namespace Sys2Proof.Machine

/-- The update `f` of the state does not meet what the moves of the core read and write. -/
structure CommutesWithMoves (f : State → State) : Prop where
  running (s : State) : (f s).running = s.running
  takeAny_fst (s : State) : (takeAny (f s)).1 = (takeAny s).1
  takeAny_snd (s : State) : (takeAny (f s)).2 = f (takeAny s).2
  complete (s : State) (r : Run) (out : Results) : complete (f s) r out = f (complete s r out)
  raiseFatal (code : FaultCode) (s : State) : raiseFatal code (f s) = f (raiseFatal code s)
  goOn (s : State) (r : Run) : goOn (f s) r = f (goOn s r)
  emitInfo (p q n : Word) (s : State) : emitInfo p q n (f s) = f (emitInfo p q n s)

/-- A write to `OPA`, `OPB` or `OPC` is such an update. -/
theorem regWrite_operand_commutes {i : BitVec 3} (v : Word) (hi : i = 0#3 ∨ i = 1#3 ∨ i = 2#3) :
    CommutesWithMoves (regWrite i v) := by
  rcases hi with rfl | rfl | rfl
  · exact ⟨fun _ => rfl, fun _ => rfl, fun _ => rfl, fun _ _ _ => rfl, fun _ _ => rfl, fun _ _ => rfl,
      fun _ _ _ _ => rfl⟩
  · exact ⟨fun _ => rfl, fun _ => rfl, fun _ => rfl, fun _ _ _ => rfl, fun _ _ => rfl, fun _ _ => rfl,
      fun _ _ _ _ => rfl⟩
  · exact ⟨fun _ => rfl, fun _ => rfl, fun _ => rfl, fun _ _ _ => rfl, fun _ _ => rfl, fun _ _ => rfl,
      fun _ _ _ _ => rfl⟩

/-- What the core does with a move of the key search, as in GENKEY and ENCRYPT; `found` ends the search (rule R69). -/
def followKeyMove (s : State) (found : Word → Word → Run → State) : KeyMove → State
  | .goOn r => goOn s r
  | .wait => s
  | .found p q r => found p q r
  | .divZero => raiseFatal .divZero s

/-- GENKEY's move is the key search, ended by completing with the pair (rule R71). -/
theorem execGenkey_eq_follow (s : State) : execGenkey s =
    onRun s fun r => followKeyMove s (fun p q r' => complete s r' (Results.two p q)) (keyMove r) := rfl

section
variable {f : State → State} (hf : CommutesWithMoves f)
include hf

theorem finishModexp_commutes (s : State) (r : Run) (x y m : Word) (out : Word → Results) :
    finishModexp (f s) r x y m out = f (finishModexp s r x y m out) := by
  unfold finishModexp
  cases modexp x y m with
  | none => exact hf.raiseFatal ..
  | some v => exact hf.complete ..

theorem primegenMove_commutes (s : State) (r : Run) : primegenMove (f s) r = f (primegenMove s r) := by
  cases hd : r.draw with
  | idle => simp only [primegenMove_idle hd]; exact hf.goOn ..
  | requested lo hi => simp only [primegenMove_requested hd]
  | answered v =>
    cases hv : isPrime v with
    | false => simp only [primegenMove_notPrime hd hv]; exact hf.goOn ..
    | true => simp only [primegenMove_prime hd hv]; exact hf.complete ..

theorem followKeyMove_commutes {found found' : Word → Word → Run → State} (s : State)
    (hfound : ∀ p q r, found' p q r = f (found p q r)) (m : KeyMove) :
    followKeyMove (f s) found' m = f (followKeyMove s found m) := by
  cases m with
  | goOn r => exact hf.goOn ..
  | wait => rfl
  | found p q r => exact hfound p q r
  | divZero => exact hf.raiseFatal ..

theorem announceKey_commutes (s : State) (r : Run) (p q : Word) :
    announceKey (f s) r p q = f (announceKey s r p q) := by
  rw [announceKey, hf.emitInfo, hf.goOn]; rfl

theorem decryptWith_commutes (s : State) (r : Run) (l : Word) : decryptWith (f s) r l = f (decryptWith s r l) := by
  unfold decryptWith
  cases modinv Config.publicExponent l with
  | none => simp only [hf.takeAny_fst, hf.takeAny_snd]; exact finishModexp_commutes hf ..
  | some d => exact finishModexp_commutes hf ..

/-- A move of the core that commutes with `f` on every latched command, does so as a turn. -/
theorem onRun_commutes {s t : State} {move move' : Run → State} (hmove : ∀ r, move' r = f (move r))
    (h : onRun s move = .next t) : onRun (f s) move' = .next (f t) := by
  rcases onRun_cases h with ⟨r, hr, rfl⟩ | ⟨hr, rfl⟩
  · rw [onRun_some ((hf.running _).trans hr), hmove]
  · exact onRun_none ((hf.running _).trans hr) _

/-- Every command's move commutes with `f`. -/
theorem exec_commutes {op : Instr} {s t : State} (h : exec op s = .next t) : exec op (f s) = .next (f t) := by
  cases op with
  | modexp => exact onRun_commutes hf (fun r => finishModexp_commutes hf ..) h
  | primality => exact onRun_commutes hf (fun r => hf.complete ..) h
  | primegen => exact onRun_commutes hf (fun r => primegenMove_commutes hf _ r) h
  | gcd => exact onRun_commutes hf (fun r => hf.complete ..) h
  | lcm =>
    refine onRun_commutes hf (fun r => ?_) h
    cases lcmWord r.a r.b with
    | value v o => exact hf.complete ..
    | divZero => exact hf.raiseFatal ..
  | modinv =>
    refine onRun_commutes hf (fun r => ?_) h
    cases modinv r.a r.b with
    | some x => exact hf.complete ..
    | none => simp only [hf.takeAny_fst, hf.takeAny_snd]; exact hf.complete ..
  | genkey =>
    rw [exec, execGenkey_eq_follow] at h ⊢
    exact onRun_commutes hf (fun r => followKeyMove_commutes hf s (fun _ _ _ => hf.complete ..) (keyMove r)) h
  | encrypt =>
    refine onRun_commutes hf (fun r => ?_) h
    have search := followKeyMove_commutes hf s (fun p q r' => announceKey_commutes hf s r' p q) (keyMove r)
    cases r.stage with
    | exponentiate p q => exact finishModexp_commutes hf ..
    | _ => exact search
  | decrypt =>
    refine onRun_commutes hf (fun r => ?_) h
    cases lcmWord (r.a - 1#64) (r.b - 1#64) with
    | divZero => exact hf.raiseFatal ..
    | value l o => exact decryptWith_commutes hf ..

end

/-- Settles O38: an operand write commutes with every operation the moves are made of. -/
theorem operandWritesDoNotDisturbTheRun : Obligations.OperandWritesDoNotDisturbTheRun := by
  unfold Obligations.OperandWritesDoNotDisturbTheRun
  exact fun i v op s t hi h => exec_commutes (regWrite_operand_commutes v hi) h

end Sys2Proof.Machine
end

section
/-! The bytes of the register words (rule R31), the accesses of a platform bus (rule R30), and the host's register
writes (rule R33). -/

namespace Sys2Proof.Machine

@[simp] theorem wordBytes_length (w : Word) : (wordBytes w).length = 8 := rfl

/-- The first byte is the word's lowest, the rest stand above it (rule R31). -/
theorem wordOfBytes_cons_getLsbD (b : Byte) (rest : List Byte) {j : Nat} (hj : j < 64) :
    (wordOfBytes (b :: rest)).getLsbD j = if j < 8 then b.getLsbD j else (wordOfBytes rest).getLsbD (j - 8) := by
  rw [wordOfBytes, BitVec.getLsbD_or, BitVec.getLsbD_shiftLeft, BitVec.getLsbD_setWidth]
  split
  · next hlow => simp [hj, hlow]
  · next hhigh => simp [hj, hhigh, BitVec.getLsbD_of_ge b j (by omega)]

/-- Bit `j` of the word of bytes `k` to `k + n - 1` is bit `8 * k + j` of the word the bytes are taken from. -/
theorem wordOfBytes_range'_getLsbD (w : Word) (n : Nat) : ∀ k j, j < 64 →
    (wordOfBytes ((List.range' k n).map (wordByte w))).getLsbD j = (decide (j < 8 * n) && w.getLsbD (8 * k + j)) := by
  induction n with
  | zero => simp [wordOfBytes]
  | succ n ih =>
    intro k j hj
    rw [List.range'_succ, List.map_cons, wordOfBytes_cons_getLsbD _ _ hj]
    split
    · next hlow =>
      have hn : j < 8 * (n + 1) := by omega
      simp [wordByte, hlow, hn]
    · next hhigh =>
      have hbit : 8 * (k + 1) + (j - 8) = 8 * k + j := by omega
      have hn : j - 8 < 8 * n ↔ j < 8 * (n + 1) := by omega
      rw [ih (k + 1) (j - 8) (by omega), hbit, decide_eq_decide.2 hn]

/-- Eight bytes read back as the word (rule R31). -/
theorem wordOfBytes_wordBytes (w : Word) : wordOfBytes (wordBytes w) = w := by
  refine BitVec.eq_of_getLsbD_eq fun j hj => ?_
  rw [wordBytes, List.range_eq_range', wordOfBytes_range'_getLsbD w 8 0 j hj]
  simp [hj]

/-- Byte `8 * i + k` of the block is byte `k` of word `i` (rule R31). -/
theorem byteAt_eq_wordByte (s : State) (i : Nat) {k : Nat} (hk : k < 8) :
    s.byteAt (8 * i + k) = wordByte (s.regRead (BitVec.ofNat 3 i)) k := by
  have hdiv : (8 * i + k) / 8 = i := by omega
  have hmod : (8 * i + k) % 8 = k := by omega
  rw [State.byteAt, hdiv, hmod]

/-- Settles O3: the word is put together bit by bit, and an offset splits into its word and its byte. -/
theorem registerBytesAreLittleEndian : Obligations.RegisterBytesAreLittleEndian := by
  unfold Obligations.RegisterBytesAreLittleEndian
  refine ⟨fun w => ⟨wordBytes_length w, fun k hk => ?_, wordOfBytes_wordBytes w, ?_⟩,
    fun s i k _ hk => byteAt_eq_wordByte s i hk⟩
  · simp [wordBytes, wordByte, hk]
  · rw [decodeBytes, if_pos (wordBytes_length w), wordOfBytes_wordBytes]

/-- A legal access is eight bytes at the address of a register word (rule R30). -/
theorem accessWf_iff (base addr size : Nat) :
    accessWf base addr size = true ↔ size = 8 ∧ ∃ i : BitVec 3, addr = base + 8 * i.toNat := by
  simp only [accessWf, accessSizeOk, accessInBlock, accessAligned, Bool.and_eq_true, beq_iff_eq, decide_eq_true_eq]
  constructor
  · rintro ⟨⟨hsize, hlow, hhigh⟩, halign⟩
    refine ⟨hsize, BitVec.ofNat 3 ((addr - base) / 8), ?_⟩
    rw [BitVec.toNat_ofNat]
    omega
  · rintro ⟨hsize, i, rfl⟩
    have := i.isLt
    omega

/-- The wrapper answers the word of a legal access and refuses any other (rule R30). -/
theorem busIndex_eq_ok_iff_wf (base addr size : Nat) (i : BitVec 3) :
    busIndex base addr size = .ok i ↔ accessWf base addr size = true ∧ BitVec.ofNat 3 ((addr - base) / 8) = i := by
  unfold busIndex accessWf
  split_ifs with hsize hin halign
  · simp [hsize, hin, halign]
  · simp [halign]
  · simp [hin]
  · simp [hsize]

/-- The index of the word at `base + 8 * i` is `i` (rule R30). -/
theorem wordIndex_of_address (base : Nat) (i : BitVec 3) : BitVec.ofNat 3 ((base + 8 * i.toNat - base) / 8) = i := by
  simp

/-- The wrapper answers index `i` exactly for eight bytes at word `i` (rule R30). -/
theorem busIndex_eq_ok_iff (base addr size : Nat) (i : BitVec 3) :
    busIndex base addr size = .ok i ↔ size = 8 ∧ addr = base + 8 * i.toNat := by
  rw [busIndex_eq_ok_iff_wf]
  constructor
  · rintro ⟨hwf, rfl⟩
    obtain ⟨rfl, j, rfl⟩ := (accessWf_iff ..).1 hwf
    rw [wordIndex_of_address]
    exact ⟨rfl, rfl⟩
  · rintro ⟨rfl, rfl⟩
    exact ⟨(accessWf_iff ..).2 ⟨rfl, i, rfl⟩, wordIndex_of_address base i⟩

/-- An access that is no register word is refused by name (rule R30). -/
theorem busIndex_refuses {base addr size : Nat} (h : ¬∃ i : BitVec 3, size = 8 ∧ addr = base + 8 * i.toNat) :
    ∃ e, busIndex base addr size = .error e := by
  cases hb : busIndex base addr size with
  | error e => exact ⟨e, rfl⟩
  | ok i => exact absurd ⟨i, (busIndex_eq_ok_iff ..).1 hb⟩ h

theorem busIndex_word (base : Nat) (i : BitVec 3) : busIndex base (base + 8 * i.toNat) 8 = .ok i :=
  (busIndex_eq_ok_iff ..).2 ⟨rfl, rfl⟩

/-- A write transaction is the register write (rule R22). -/
@[simp] theorem performTxn_write (i : BitVec 3) (v : Word) (s : State) : performTxn (.write i v) s = regWrite i v s :=
  rfl

@[simp] theorem performTxn_read (i : BitVec 3) (s : State) : performTxn (.read i) s = logRead i (s.regRead i) s := rfl

theorem runLine_busWrite_word (i : BitVec 3) (v : Word) (s : State) :
    runLine (.busWrite (Config.base + 8 * i.toNat) 8 v) s = .next (regWrite i v s) := by
  simp only [runLine, busIndex_word, hostEdge_txn, performTxn_write]

theorem runLine_busRead_word (i : BitVec 3) (s : State) :
    runLine (.busRead (Config.base + 8 * i.toNat) 8) s = .next (logRead i (s.regRead i) s) := by
  simp only [runLine, busIndex_word, hostEdge_txn, performTxn_read]

/-- Settles O5: what the wrapper answers for each access, carried through the host's turn. -/
theorem busAcceptsExactlyWholeWords : Obligations.BusAcceptsExactlyWholeWords := by
  unfold Obligations.BusAcceptsExactlyWholeWords
  refine ⟨busIndex_eq_ok_iff, fun s addr size v rest ha hs hno => ?_, fun s i v rest ha hs => ?_,
    fun s i rest ha hs => ?_⟩
  · obtain ⟨e, he⟩ := busIndex_refuses hno
    refine ⟨e, ?_⟩
    rcases hs with hs | hs <;> rw [step_host ha hs] <;> simp only [runLine, he]
  · rw [step_host ha hs, runLine_busWrite_word]
  · rw [step_host ha hs, runLine_busRead_word]
    rfl

/-- A `wr` line whose value is known is the write of it (rule R44). -/
theorem runLine_wr {s : State} {x : Val} {v : Word} (r : Reg) (hx : s.valueOf x = some v) :
    runLine (.wr r x) s = .next (performTxn (.write r.index v) s) := by
  simp only [runLine, hx, hostEdge_txn]

/-- Settles O37: the eight words by the equations of `regWrite`, and a `wr` line on the host's turn. -/
theorem writesReachOnlyOperandsAndCommand : Obligations.WritesReachOnlyOperandsAndCommand := by
  unfold Obligations.WritesReachOnlyOperandsAndCommand
  intro s v
  simp only [performTxn_write]
  refine ⟨regWrite_0 v s, regWrite_1 v s, regWrite_2 v s, regWrite_3 v s, regWrite_4 v s, regWrite_5 v s,
    regWrite_6 v s, regWrite_7 v s, fun r x rest ha hs hx => ?_⟩
  rw [step_host ha hs]
  exact runLine_wr r hx

end Sys2Proof.Machine
end

section
/-! The opcode table read both ways (rules R39, R40, R43), the lines `wait` and `wr` with a script variable, and the
only fault a step can answer (rule R44). -/

namespace Sys2Proof.Machine

/-- The encoder's word, read as a number, is the opcode (rule R40). -/
theorem encode_eq_ofNat (i : Instr) : encode i = BitVec.ofNat 64 (opcodeOf i).toNat := by
  cases i <;> rfl

/-- The opcodes of the table are 1 to 9 (rule R39). -/
theorem opcodeOf_range (i : Instr) : 1 ≤ (opcodeOf i).toNat ∧ (opcodeOf i).toNat ≤ 9 := by
  cases i <;> decide

/-- The decoder refuses exactly where it answers no command. -/
theorem exists_bad_iff_instr?_none (d : Decoded) : (∃ why, d = .bad why) ↔ d.instr? = none := by
  cases d <;> simp [Decoded.instr?]

/-- The opcodes that select no command are 0 and those from 10 (rule R43). -/
theorem decodeOpcode_instr?_none_iff : ∀ op : BitVec 4, (decodeOpcode op).instr? = none ↔ op = 0#4 ∨ 10 ≤ op.toNat := by
  decide

/-- The decoder refuses a word with a bit of 63:4 set, or an opcode field that selects no command (rules R40, R43). -/
theorem decode_bad_iff (w : Word) : (∃ why, decode w = .bad why) ↔
    w.extractLsb' 4 60 ≠ 0#60 ∨ w.extractLsb' 0 4 = 0#4 ∨ 10 ≤ (w.extractLsb' 0 4).toNat := by
  by_cases hz : w.extractLsb' 4 60 = 0#60
  · rw [decode, if_pos hz, exists_bad_iff_instr?_none, decodeOpcode_instr?_none_iff]
    simp [hz]
  · rw [decode, if_neg hz]
    simp [hz]

/-- Settles O2: the decoder answers a command exactly for its word, and the opcode fields it refuses are listed. -/
theorem decodeInvertsEncodeExactly : Obligations.DecodeInvertsEncodeExactly := by
  unfold Obligations.DecodeInvertsEncodeExactly
  refine ⟨fun i => (decode_eq_ok_iff _ i).2 rfl, fun w i => ?_, opcodeOf_range, decode_bad_iff⟩
  rw [decode_eq_ok_iff, encode_eq_ofNat]

/-- Settles O1: the words are closed, and the decoder computes its answer for each. -/
theorem commandWordsReadAsTabled : Obligations.CommandWordsReadAsTabled := by
  unfold Obligations.CommandWordsReadAsTabled
  decide

/-- Settles O53: the latest binding is the value of the line, and the line writes it. -/
theorem boundVariableIsWritten : Obligations.BoundVariableIsWritten := by
  unfold Obligations.BoundVariableIsWritten
  intro s r n v newer older rest ha hs hv hn
  rw [step_host ha hs]
  exact runLine_wr r (valueOf_name_bound hv hn)

/-- A `wr` line whose variable has no value stops the script (log entry 11). -/
theorem runLine_wr_unbound {s : State} {x : Val} (r : Reg) (hx : s.valueOf x = none) :
    runLine (.wr r x) s = .fault .unboundScriptName := by
  simp only [runLine, hx]

/-- No line but a `wr` of an unbound script variable answers a fault (log entry 11). -/
theorem runLine_fault {l : Line} {s : State} {e : Fault} (h : runLine l s = .fault e) :
    e = .unboundScriptName ∧ ∃ r n, l = .wr r (.name n) ∧ s.valueOf (.name n) = none := by
  cases l with
  | wr r v =>
    cases v with
    | lit v => cases h
    | name n =>
      cases hx : s.valueOf (.name n) with
      | none =>
        rw [runLine_wr_unbound r hx] at h
        cases h
        exact ⟨rfl, r, n, rfl, hx⟩
      | some v =>
        rw [runLine_wr r hx] at h
        cases h
  | wait =>
    simp only [runLine] at h
    split at h <;> cases h
  | busWrite addr size v =>
    simp only [runLine] at h
    split at h <;> cases h
  | busRead addr size =>
    simp only [runLine] at h
    split at h <;> cases h
  | cmd | rd | rdTo | reset | comment => cases h

/-- The core answers no fault of the model: its own faults are next states (rule R85). -/
theorem coreTurn_ne_fault (s : State) (e : Fault) : coreTurn s ≠ .fault e := by
  unfold coreTurn
  split
  · next r _ =>
    obtain ⟨t, ht⟩ := exec_next r.op s
    simp [ht]
  · simp

/-- The random source answers, waits, or is refused its turn (rules R23, R57, R116). -/
theorem sourceTurn_ne_fault (s : State) (e : Fault) : sourceTurn s ≠ .fault e := by
  unfold sourceTurn
  split
  · split
    · split <;> simp
    · simp
    · simp
  · simp

/-- A step that answers a fault is the host's, on a line left in the script. -/
theorem step_fault {s : State} {e : Fault} (h : step s = .fault e) :
    s.nextAgent = .host ∧ ∃ l rest, s.script = l :: rest ∧
      runLine l { s with schedule := s.schedule.tail, script := rest } = .fault e := by
  cases ha : s.nextAgent with
  | host =>
    cases hs : s.script with
    | nil => simp [step, ha, hostTurn, hs] at h
    | cons l rest => exact ⟨rfl, l, rest, rfl, step_host ha hs ▸ h⟩
  | core =>
    simp only [step, ha] at h
    exact (coreTurn_ne_fault _ _ h).elim
  | source =>
    rw [step_source ha] at h
    exact (sourceTurn_ne_fault _ _ h).elim

/-- Settles O54: the line without a value stops, and of the three agents only the host at such a line faults. -/
theorem unboundVariableStopsTheScript : Obligations.UnboundVariableStopsTheScript := by
  unfold Obligations.UnboundVariableStopsTheScript
  refine ⟨fun s r n rest ha hs hn => ?_, fun s e h => ?_⟩
  · rw [step_host ha hs]
    exact runLine_wr_unbound r (valueOf_name_none.2 hn)
  · obtain ⟨ha, l, rest, hs, hl⟩ := step_fault h
    obtain ⟨rfl, r, n, rfl, hx⟩ := runLine_fault hl
    exact ⟨rfl, ha, r, n, rest, hs, valueOf_name_none.1 hx⟩

/-- A `wait` line reads `STATUS`, and comes back while it shows `BUSY = 1` (rule R44). -/
theorem runLine_wait (s : State) : runLine .wait s = .next
    (if s.busy then pushLine .wait (logRead 4#3 s.statusWord s) else logRead 4#3 s.statusWord s) := by
  rw [runLine, statusWord_busy]
  cases s.busy <;> rfl

/-- Settles O51: one read of `STATUS`, after which the line is put back or not. -/
theorem waitPollsUntilNotBusy : Obligations.WaitPollsUntilNotBusy := by
  unfold Obligations.WaitPollsUntilNotBusy
  intro s rest ha hs
  rw [step_host ha hs, runLine_wait]
  refine ⟨fun hb => ?_, fun hb => ?_⟩
  · rw [if_pos hb]
    simp [pushLine, logRead, hs, State.statusWord]
  · rw [if_neg (by simp [hb])]
    rfl

end Sys2Proof.Machine
end

section
/-! MODEXP: its result (rules R48, R84), its value on integers (rule R51), and the loop over the exponent's bits that
computes the value of the recursion (rules R47, R50). -/

namespace Sys2Proof.Machine

/-- A latched MODEXP is one exponentiation that ends the command (rule R48). -/
theorem exec_modexp {s : State} {r : Run} (hr : s.running = some r) :
    exec .modexp s = .next (finishModexp s r r.a r.b r.c Results.one) :=
  onRun_some hr _

/-- A fresh run that completes with one result has raised no flag (rule R84). -/
theorem complete_one_fresh (s : State) (op : Instr) (a b c v : Word) :
    complete s (Run.fresh op a b c) (Results.one v) = finishedWith s v s.res1 s.res2 false false := rfl

/-- Settles O9: the exponentiation completes with its integer value, and its run is fresh. -/
theorem modexpResult : Obligations.ModexpResult := by
  unfold Obligations.ModexpResult
  intro s a b c hr hc
  have hc' : (Run.fresh .modexp a b c).c ≠ 0#64 := hc
  rw [exec_modexp hr, finishModexp_value _ _ _ _ _ _ hc', complete_one_fresh]
  rfl

theorem modexpValue_zero_base (y m : Nat) : modexpValue 0 y m = 0#64 := rfl

theorem modexpValue_zero_exponent {x : Nat} (hx : x ≠ 0) (m : Nat) : modexpValue x 0 m = 1#64 := by
  rw [modexpValue, if_neg hx, if_pos rfl]

/-- Away from the two quirks of rule R51 the value is the remainder of the power: 0 to the power 0 modulo 1 is 0, and
an unreduced 1 is reduced modulo any `m` of at least 2. -/
theorem modexpValue_toNat {x y m : Nat} (hpos : 0 < m) (hm : m < 2 ^ 64) (h00 : x = 0 → y = 0 → m = 1)
    (h10 : x ≠ 0 → y = 0 → m ≠ 1) : (modexpValue x y m).toNat = x ^ y % m := by
  by_cases hx : x = 0
  · subst hx
    rw [modexpValue_zero_base]
    by_cases hy : y = 0
    · rw [h00 rfl hy, Nat.mod_one]
      rfl
    · rw [Nat.zero_pow (Nat.pos_of_ne_zero hy), Nat.zero_mod]
      rfl
  · by_cases hy : y = 0
    · subst hy
      have h1 : m ≠ 1 := h10 hx rfl
      rw [modexpValue_zero_exponent hx, pow_zero, Nat.mod_eq_of_lt (by omega)]
      rfl
    · rw [modexpValue, if_neg hx, if_neg hy, BitVec.toNat_ofNat]
      exact Nat.mod_eq_of_lt ((Nat.mod_lt _ hpos).trans hm)

/-- Settles O12: the value on integers, at its two quirks and away from them. -/
theorem modexpFunctionValue : Obligations.ModexpFunctionValue := by
  unfold Obligations.ModexpFunctionValue
  intro x y m hm
  have hpos : 0 < m.toNat := Nat.pos_of_ne_zero ((word_ne_zero_iff m).1 hm)
  refine ⟨_, modexp_eq_value x y m hm, fun hx _ _ => ?_, fun hx hy _ => ?_, fun h00 h10 => ?_⟩
  · rw [hx]
    exact modexpValue_zero_base _ _
  · rw [hy]
    exact modexpValue_zero_exponent ((word_ne_zero_iff x).1 hx) _
  · refine modexpValue_toNat hpos m.isLt (fun hx hy => ?_) fun hx hy h1 => ?_
    · have : ¬2 ≤ m.toNat := fun h2 => h00 ⟨(word_eq_zero_iff x).2 hx, (word_eq_zero_iff y).2 hy, h2⟩
      omega
    · exact h10 ⟨(word_ne_zero_iff x).2 hx, (word_eq_zero_iff y).2 hy, BitVec.eq_of_toNat_eq h1⟩

/-- The recursion answers the same for every fuel that is not used up (log entry 13). -/
theorem modexpRec_fuel {x m y : Word} (hm : m ≠ 0#64) {n k : Nat} (hn : y.toNat < 2 ^ n) (hk : y.toNat < 2 ^ k) :
    modexpRec x m n y = modexpRec x m k y :=
  BitVec.eq_of_toNat_eq ((modexpRec_toNat x m hm n y hn).trans (modexpRec_toNat x m hm k y hk).symm)

theorem modexpRec_zero (x m : Word) : modexpRec x m 64 0#64 = 1#64 := rfl

/-- The recursion of rule R47 with the fuel of `modexp` on both sides: square, and multiply for an odd exponent. -/
theorem modexpRec_of_ne_zero {x m y : Word} (hm : m ≠ 0#64) (hy : y ≠ 0#64) :
    modexpRec x m 64 y =
      let s := mulMod (modexpRec x m 64 (y / 2#64)) (modexpRec x m 64 (y / 2#64)) m
      if y.getLsbD 0 then mulMod s x m else s := by
  have hhalf : (y / 2#64).toNat < 2 ^ 63 := by
    have : (y / 2#64).toNat = y.toNat / 2 := BitVec.toNat_udiv
    omega
  rw [← modexpRec_fuel hm hhalf (y / 2#64).isLt, modexpRec, if_neg hy]

theorem ushiftRight_succ (y : Word) (i : Nat) : y >>> (i + 1) = (y >>> i) / 2#64 := by
  apply BitVec.eq_of_toNat_eq
  rw [BitVec.toNat_udiv, BitVec.toNat_ushiftRight, BitVec.toNat_ushiftRight, Nat.shiftRight_succ]
  rfl

/-- The loop of rule R50, entered at bit `i - 1` with the recursion's value for the bits above it, ends with the
recursion's value for the whole exponent. -/
theorem modexpLoop_eq_modexpRec {x y m : Word} (hm : m ≠ 0#64) (i : Nat) :
    modexpLoop x y m i (modexpRec x m 64 (y >>> i)) = modexpRec x m 64 y := by
  induction i with
  | zero => rw [modexpLoop, BitVec.ushiftRight_zero]
  | succ i ih =>
    have hbit : (y >>> i).getLsbD 0 = y.getLsbD i := by rw [BitVec.getLsbD_ushiftRight, Nat.add_zero]
    by_cases h : y >>> i = 0#64
    · have h' : y >>> (i + 1) = y >>> i := by
        rw [ushiftRight_succ, h]
        rfl
      rw [modexpLoop, if_pos h, h', ih]
    · rw [modexpRec_of_ne_zero hm h, hbit, ← ushiftRight_succ] at ih
      rw [modexpLoop, if_neg h]
      exact ih

/-- Settles O13: no bit stands above the most significant one, so the loop starts from the recursion's value for an
exponent of 0. -/
theorem modexpLoopFormAgrees : Obligations.ModexpLoopFormAgrees := by
  unfold Obligations.ModexpLoopFormAgrees
  intro x y m hm hx
  have htop : modexpRec x m 64 (y >>> 64) = 1#64 := by
    rw [BitVec.ushiftRight_eq_zero (le_refl 64)]
    exact modexpRec_zero x m
  rw [modexp, if_neg hm, if_neg hx, ← htop, modexpLoop_eq_modexpRec hm]

end Sys2Proof.Machine
end

section
/-! PRIMALITY and PRIMEGEN: their results (rules R53, R54, R56), and a run of PRIMEGEN in which the random source
and the core take turns until the first prime answer (rules R55, R90). -/

namespace Sys2Proof.Machine

/-- Settles O14: the loop answers for the numbers that are left once 2 and 3 are ruled out. -/
theorem primalityIsExact : Obligations.PrimalityIsExact := by
  unfold Obligations.PrimalityIsExact
  exact isPrime_iff

/-- The result word of PRIMALITY (rules R42, R54). -/
theorem boolWord_isPrime (n : Word) : boolWord (isPrime n) = if Nat.Prime n.toNat then 1#64 else 0#64 := by
  simp only [boolWord, isPrime_iff]

/-- A latched PRIMALITY completes in one move (rule R54). -/
theorem exec_primality {s : State} {r : Run} (hr : s.running = some r) :
    exec .primality s = .next (complete s r (Results.one (boolWord (isPrime r.a)))) :=
  onRun_some hr _

/-- Settles O15: the result word is that of an exact test, and the run is fresh. -/
theorem primalityResult : Obligations.PrimalityResult := by
  unfold Obligations.PrimalityResult
  intro s a b c hr
  rw [exec_primality hr, boolWord_isPrime, complete_one_fresh, fresh_a]

/-- Settles O16: the test of the answer is exact, and no flag was raised on the way to it. -/
theorem primegenCompletesOnPrime : Obligations.PrimegenCompletesOnPrime := by
  unfold Obligations.PrimegenCompletesOnPrime
  intro s a b c v hr hv
  rw [exec_primegen hr, primegenMove_prime rfl ((isPrime_iff v).2 hv)]
  rfl

theorem runSteps_of_step {s t : State} (h : step s = .next t) (k : Nat) : runSteps (k + 1) s = runSteps k t := by
  simp only [runSteps, h]

theorem popTurn_of_schedule {s : State} {agent : Agent} {l : List Agent} (hs : s.schedule = agent :: l) :
    popTurn s = { s with schedule := l } := by
  rw [popTurn, hs, List.tail_cons]

/-- A scheduled turn of the core makes a move of the latched command (rule R83). -/
theorem step_scheduled_core {s : State} {r : Run} {l : List Agent} (hs : s.schedule = .core :: l)
    (hr : s.running = some r) : step s = exec r.op { s with schedule := l } := by
  rw [step_core (nextAgent_cons hs) hr, popTurn_of_schedule hs]

/-- `s` after draws of `[2^30, 2^31)` answered by `xs`, with the answers `rest` and the turns `l` left (rules R10,
R23). -/
def State.drawn (s : State) (xs rest : List Word) (l : List Agent) : State :=
  { s with answers := rest, schedule := l, draws := s.draws ++ xs.map drawOf }

theorem drawn_nil (s : State) : s.drawn [] s.answers s.schedule = s := by
  simp [State.drawn]

theorem drawn_drawn (s : State) (xs ys rest rest' : List Word) (l l' : List Agent) :
    (s.drawn xs rest l).drawn ys rest' l' = s.drawn (xs ++ ys) rest' l' := by
  simp [State.drawn]

/-- A scheduled turn of the source answers the outstanding draw with the next answer and records it (rule R23). -/
theorem step_scheduled_source {s : State} (r : Run) {v : Word} {rest : List Word} {l : List Agent}
    (hs : s.schedule = .source :: l) (ha : s.answers = v :: rest) :
    step (goOn s { r with draw := dutyRequest }) =
      .next (goOn (s.drawn [v] rest l) { r with draw := .answered v }) := by
  have hs' : (goOn s { r with draw := dutyRequest }).schedule = .source :: l := hs
  rw [step_source (nextAgent_cons hs'), popTurn_of_schedule hs']
  exact sourceTurn_answer (r := { r with draw := dutyRequest }) rfl rfl ha

/-- A draw: the source's turn, then the move the command makes with the answer (rules R23, R90). -/
theorem runSteps_draw {s t : State} (r : Run) {v : Word} {rest : List Word} {l : List Agent}
    (hs : s.schedule = .source :: .core :: l) (ha : s.answers = v :: rest)
    (he : exec r.op (goOn (s.drawn [v] rest l) { r with draw := .answered v }) = .next t) (k : Nat) :
    runSteps (k + 2) (goOn s { r with draw := dutyRequest }) = runSteps k t := by
  rw [runSteps_of_step (step_scheduled_source r hs ha)]
  exact runSteps_of_step ((step_scheduled_core rfl rfl).trans he) k

theorem drawTurns_succ (n : Nat) : drawTurns (n + 1) = .source :: .core :: drawTurns n := by
  simp only [drawTurns, List.replicate_succ, List.flatten_cons, List.cons_append, List.nil_append]

theorem drawTurns_add (m n : Nat) : drawTurns (m + n) = drawTurns m ++ drawTurns n := by
  rw [drawTurns, List.replicate_add, List.flatten_append, drawTurns, drawTurns]

/-- The command of `r` meets an answer that is not prime by asking for another draw, and does nothing else (rule
R55). -/
def Run.drawsAgain (r : Run) : Prop :=
  ∀ (s : State) (v : Word), ¬Nat.Prime v.toNat →
    exec r.op (goOn s { r with draw := .answered v }) = .next (goOn s { r with draw := dutyRequest })

/-- Answers that are not prime, with a turn of the source and one of the core for each, are used up and recorded as
draws, and leave the command where it was (rules R55, R90). -/
theorem runSteps_discard {r : Run} (h : r.drawsAgain) {xs rest : List Word} {l : List Agent}
    (hxs : ∀ x ∈ xs, ¬Nat.Prime x.toNat) (k : Nat) :
    ∀ s : State, s.answers = xs ++ rest → s.schedule = drawTurns xs.length ++ l →
      runSteps (2 * xs.length + k) (goOn s { r with draw := dutyRequest }) =
        runSteps k (goOn (s.drawn xs rest l) { r with draw := dutyRequest }) := by
  induction xs with
  | nil =>
    intro s ha hs
    obtain rfl : s.answers = rest := ha
    obtain rfl : s.schedule = l := hs
    rw [drawn_nil, List.length_nil, Nat.mul_zero, Nat.zero_add]
  | cons x xs ih =>
    intro s ha hs
    obtain ⟨hx, hxs⟩ := List.forall_mem_cons.1 hxs
    have hlen : 2 * (x :: xs).length + k = 2 * xs.length + k + 2 := by
      rw [List.length_cons]
      omega
    have hs' : s.schedule = .source :: .core :: (drawTurns xs.length ++ l) := by
      rw [hs, List.length_cons, drawTurns_succ, List.cons_append, List.cons_append]
    rw [hlen, runSteps_draw r hs' ha (h _ x hx), ih hxs _ rfl rfl, drawn_drawn, List.singleton_append]

/-- PRIMEGEN looking for its prime is such a command (rule R55). -/
theorem primegen_drawsAgain (a b c : Word) : Run.drawsAgain { Run.fresh .primegen a b c with stage := .findP } := by
  intro s v hv
  obtain ⟨_, _, hagain⟩ := primegenDrawsUntilPrime (goOn s _) a b c
  exact hagain v rfl hv

/-- PRIMEGEN with its first draw requested: the answers that are not prime take a pair of turns each, and the prime
takes the last pair (rules R55, R56). -/
theorem runSteps_primegen_requested {s : State} {xs rest : List Word} {v : Word} {l : List Agent} (a b c : Word)
    (hxs : ∀ x ∈ xs, ¬Nat.Prime x.toNat) (hv : Nat.Prime v.toNat) (ha : s.answers = xs ++ v :: rest)
    (hs : s.schedule = drawTurns (xs.length + 1) ++ l) :
    runSteps (2 * xs.length + 2) (goOn s { Run.fresh .primegen a b c with stage := .findP, draw := dutyRequest }) =
      .next (finishedWith (s.drawn (xs ++ [v]) rest l) v s.res1 s.res2 false false) := by
  rw [drawTurns_add, List.append_assoc] at hs
  have hlast := runSteps_draw (s := s.drawn xs (v :: rest) (drawTurns 1 ++ l))
    { Run.fresh .primegen a b c with stage := .findP } rfl rfl (primegenCompletesOnPrime _ a b c v rfl hv) 0
  rw [drawn_drawn] at hlast
  exact (runSteps_discard (primegen_drawsAgain a b c) hxs 2 s ha hs).trans hlast

/-- Settles O32: the core requests the first draw, and goes on from there. -/
theorem primegenRunCompletes : Obligations.PrimegenRunCompletes := by
  unfold Obligations.PrimegenRunCompletes
  intro s a b c v xs rest l hr hxs hv ha hs
  obtain ⟨hrequest, _, _⟩ := primegenDrawsUntilPrime { s with schedule := drawTurns (xs.length + 1) ++ l } a b c
  have hstart := (step_scheduled_core hs hr).trans (hrequest hr)
  exact (runSteps_of_step hstart _).trans (runSteps_primegen_requested a b c hxs hv ha rfl)

end Sys2Proof.Machine
end

section
/-! The moves of the key search (rules R55, R69, R90), and GENKEY and ENCRYPT as the two commands that follow them. -/

namespace Sys2Proof.Machine

theorem keyMove_idle {r : Run} (hd : r.draw = .idle) :
    keyMove r = .goOn (requestDraw { r with stage := .findP }) := by
  simp only [keyMove, hd]

theorem keyMove_requested {r : Run} {lo hi : Word} (hd : r.draw = .requested lo hi) : keyMove r = .wait := by
  simp only [keyMove, hd]

theorem keyMove_notPrime {r : Run} {v : Word} (hd : r.draw = .answered v) (hv : ¬Nat.Prime v.toNat) :
    keyMove r = .goOn (requestDraw r) := by
  simp [keyMove, hd, keyAnswer, isPrime_eq_false hv]

theorem keyMove_firstPrime {r : Run} {v : Word} (hs : r.stage = .findP) (hd : r.draw = .answered v)
    (hv : Nat.Prime v.toNat) : keyMove r = .goOn (requestDraw { r with stage := .findQ v }) := by
  simp only [keyMove, hd, keyAnswer, (isPrime_iff v).2 hv, hs, if_true]

/-- A move of GENKEY (rule R71). -/
theorem exec_genkey {s : State} {r : Run} (hr : s.running = some r) :
    exec .genkey s = .next (followKeyMove s (fun p q r' => complete s r' (Results.two p q)) (keyMove r)) :=
  onRun_some hr _

/-- A move of ENCRYPT before its exponentiation (rules R73, R74). -/
theorem exec_encrypt_search {s : State} {r : Run} (hr : s.running = some r)
    (hs : ∀ p q, r.stage ≠ .exponentiate p q) :
    exec .encrypt s = .next (followKeyMove s (fun p q r' => announceKey s r' p q) (keyMove r)) := by
  rw [exec, execEncrypt, onRun_some hr]
  match hst : r.stage with
  | .exponentiate p q => exact absurd hst (hs p q)
  | .start => rfl
  | .findP => rfl
  | .findQ p => rfl

/-- GENKEY and ENCRYPT follow the same moves until the key is found (rule R69). -/
theorem exec_keySearch {s : State} {r : Run} {i : Instr} (hi : i = .genkey ∨ i = .encrypt) (hr : s.running = some r)
    (hs : ∀ p q, r.stage ≠ .exponentiate p q) :
    ∃ found, exec i s = .next (followKeyMove s found (keyMove r)) := by
  rcases hi with rfl | rfl
  · exact ⟨_, exec_genkey hr⟩
  · exact ⟨_, exec_encrypt_search hr hs⟩

theorem exec_keySearch_goOn {s : State} {r r' : Run} {i : Instr} (hi : i = .genkey ∨ i = .encrypt)
    (hr : s.running = some r) (hs : ∀ p q, r.stage ≠ .exponentiate p q) (hk : keyMove r = .goOn r') :
    exec i s = .next (goOn s r') := by
  obtain ⟨found, he⟩ := exec_keySearch hi hr hs
  rw [he, hk, followKeyMove]

theorem exec_keySearch_wait {s : State} {r : Run} {i : Instr} (hi : i = .genkey ∨ i = .encrypt)
    (hr : s.running = some r) (hs : ∀ p q, r.stage ≠ .exponentiate p q) (hk : keyMove r = .wait) :
    exec i s = .next s := by
  obtain ⟨found, he⟩ := exec_keySearch hi hr hs
  rw [he, hk, followKeyMove]

/-- Settles O24: one equation of `keyMove` for each of the moves, none of them in the exponentiation. -/
theorem keySearchMoves : Obligations.KeySearchMoves := by
  unfold Obligations.KeySearchMoves
  intro s r i hi hr
  refine ⟨fun hst hd => ?_, fun hst => ?_, fun v hst hd hv => ?_⟩
  · exact exec_keySearch_goOn hi hr (by simp [hst]) (keyMove_idle hd)
  · have hs : ∀ p q, r.stage ≠ .exponentiate p q := by
      rcases hst with hst | ⟨p, hst⟩ <;> simp [hst]
    exact ⟨fun lo hi' hd => exec_keySearch_wait hi hr hs (keyMove_requested hd),
      fun v hd hv => exec_keySearch_goOn hi hr hs (keyMove_notPrime hd hv)⟩
  · exact exec_keySearch_goOn hi hr (by simp [hst]) (keyMove_firstPrime hst hd hv)

end Sys2Proof.Machine
end

section
/-! GCD and LCM: their results (rules R59, R61), and the value of `lcm` on integers with and without overflow (rules
R60, R63). -/

namespace Sys2Proof.Machine

/-- `gcd` as the word of an integer (rule R58). -/
theorem gcdWord_eq_ofNat (x y : Word) : gcdWord x y = BitVec.ofNat 64 (Nat.gcd x.toNat y.toNat) := by
  rw [← gcdWord_toNat, BitVec.ofNat_toNat, BitVec.setWidth_eq]

/-- A latched GCD completes in one move (rule R59). -/
theorem exec_gcd {s : State} {r : Run} (hr : s.running = some r) :
    exec .gcd s = .next (complete s r (Results.one (gcdWord r.a r.b))) :=
  onRun_some hr _

/-- Settles O18: the result word is that of the greatest common divisor, and the run is fresh. -/
theorem gcdResult : Obligations.GcdResult := by
  unfold Obligations.GcdResult
  intro s a b c hr
  rw [exec_gcd hr, complete_one_fresh, fresh_a, fresh_b, gcdWord_eq_ofNat]

/-- A latched LCM whose `lcm` does not fault completes in one move, with `ovf` in the accumulator (rule R61). -/
theorem exec_lcm_value {s : State} {r : Run} {v : Word} {o : Bool} (hr : s.running = some r)
    (hv : lcmWord r.a r.b = .value v o) :
    exec .lcm s = .next (complete s { r with accOvf := r.accOvf || o } (Results.one v)) := by
  rw [exec, execLcm, onRun_some hr, hv]

/-- A run that is fresh but for the overflow of `lcm` completes with that flag alone (rules R61, R84). -/
theorem complete_one_fresh_ovf (s : State) (op : Instr) (a b c v : Word) (o : Bool) :
    complete s { Run.fresh op a b c with accOvf := o } (Results.one v) =
      finishedWith s v s.res1 s.res2 o false := rfl

/-- `lcm` on two operands that are not both 0, on integers (rule R60). -/
theorem lcmWord_eq_wrappedLcm {x y : Word} (h : x ≠ 0#64 ∨ y ≠ 0#64) :
    lcmWord x y = .value (BitVec.ofNat 64 (wrappedLcm x.toNat y.toNat)) (decide (2 ^ 64 ≤ x.toNat * y.toNat)) :=
  lcmWord_value x y h

/-- Settles O19: the integer value of `lcm` and its overflow, and the run is fresh. -/
theorem lcmResult : Obligations.LcmResult := by
  unfold Obligations.LcmResult
  intro s a b c hr h
  rw [exec_lcm_value hr (lcmWord_eq_wrappedLcm h), fresh_accOvf, Bool.false_or, complete_one_fresh_ovf, fresh_a,
    fresh_b]

theorem wrappedLcm_lt (x y : Nat) : wrappedLcm x y < 2 ^ 64 :=
  lt_of_le_of_lt (Nat.div_le_self _ _) (Nat.mod_lt _ (by norm_num))

/-- A product that fits 64 bits is not wrapped (rule R63). -/
theorem wrappedLcm_eq_lcm {x y : Nat} (h : x * y < 2 ^ 64) : wrappedLcm x y = Nat.lcm x y := by
  rw [wrappedLcm, Nat.mod_eq_of_lt h, Nat.lcm]

/-- The word of `wrappedLcm` is the least common multiple when the product fits (rule R63). -/
theorem ofNat_wrappedLcm_toNat {x y : Nat} (h : x * y < 2 ^ 64) :
    (BitVec.ofNat 64 (wrappedLcm x y)).toNat = Nat.lcm x y := by
  rw [BitVec.toNat_ofNat, Nat.mod_eq_of_lt (wrappedLcm_lt x y), wrappedLcm_eq_lcm h]

/-- Settles O20: `gcd * lcm` is the product on integers, and 3 times the greatest word wraps. -/
theorem gcdTimesLcmIsProduct : Obligations.GcdTimesLcmIsProduct := by
  unfold Obligations.GcdTimesLcmIsProduct
  constructor
  · intro x y h hlt
    have hv := ofNat_wrappedLcm_toNat hlt
    refine ⟨_, ?_, hv, ?_⟩
    · rw [lcmWord_eq_wrappedLcm h, decide_eq_false (Nat.not_le.2 hlt)]
    · rw [hv, gcdWord_toNat, Nat.gcd_mul_lcm]
  · exact ⟨3#64, 0xFFFFFFFFFFFFFFFF#64, 0x5555555555555554#64, by decide, by decide⟩

end Sys2Proof.Machine
end

section
/-! MODINV: its results with and without an inverse (rules R64, R66, R67) and its round trips (rule R68); and DECRYPT
where its exponent does not exist (rules R66, R77, R78). -/

namespace Sys2Proof.Machine

/-- A latched MODINV whose inverse exists completes with it in one move (rule R67). -/
theorem exec_modinv_some {s : State} {r : Run} {x : Word} (hr : s.running = some r) (hx : modinv r.a r.b = some x) :
    exec .modinv s = .next (complete s r (Results.one x)) := by
  rw [exec, execModinv, onRun_some hr, hx]

/-- Without an inverse a latched MODINV takes the next free value and sets its accumulator `noinv` (rules R66, R67). -/
theorem exec_modinv_none {s : State} {r : Run} (hr : s.running = some r) (hx : modinv r.a r.b = none) :
    exec .modinv s =
      .next (complete (takeAny s).2 { r with accNoinv := true } (Results.one (Config.anyU64 s.anys))) := by
  rw [exec, execModinv, onRun_some hr, hx, takeAny_fst]

/-- A run that took a free value and is fresh but for its flags completes with them, one result, and one more free
value counted (rules R66, R84). -/
theorem complete_takeAny_one_fresh (s : State) (op : Instr) (a b c v : Word) (o i : Bool) :
    complete (takeAny s).2 { Run.fresh op a b c with accOvf := o, accNoinv := i } (Results.one v) =
      { finishedWith s v s.res1 s.res2 o i with anys := s.anys + 1 } := rfl

/-- Settles O21: `modinv` answers the one inverse, and the run is fresh. -/
theorem modinvResult : Obligations.ModinvResult := by
  unfold Obligations.ModinvResult
  intro s a b c hr hb hg
  obtain ⟨x, hx, hinv⟩ := modinv_spec a b hb hg
  exact ⟨x, hinv, by rw [exec_modinv_some hr hx, complete_one_fresh]⟩

/-- Settles O22: `modinv` has no value, so that the next free value is taken and `NOINV` set. -/
theorem modinvWithoutInverse : Obligations.ModinvWithoutInverse := by
  unfold Obligations.ModinvWithoutInverse
  intro s a b c hr h
  have hnone : modinv a b = none := modinv_none a b (h.imp_right And.right)
  rw [exec_modinv_none hr hnone]
  exact congrArg _ (complete_takeAny_one_fresh s _ a b c _ false true)

/-- A word below `m` that inverts `a` modulo `m` is what `modinv` answers (rule R64). -/
theorem modinv_eq_some_of_inverts {a m x : Word} (hlt : x.toNat < m.toNat)
    (h : a.toNat * x.toNat % m.toNat = 1 % m.toNat) : modinv a m = some x := by
  have hm : m ≠ 0#64 := (word_ne_zero_iff m).2 (by omega)
  obtain ⟨y, hy, -, -, huniq⟩ := modinv_spec a m hm (Nat.coprime_of_mul_modEq_one x.toNat h)
  rw [hy, BitVec.eq_of_toNat_eq (huniq x.toNat hlt h)]

/-- The inverse of an inverse of `a` is `a` reduced modulo `m` (rule R68). -/
theorem modinv_of_inverts {a m x : Word} (hm : m ≠ 0#64) (h : a.toNat * x.toNat % m.toNat = 1 % m.toNat) :
    modinv x m = some (a % m) := by
  refine modinv_eq_some_of_inverts ?_ ?_
  · rw [BitVec.toNat_umod]
    exact Nat.mod_lt _ (Nat.pos_of_ne_zero ((word_ne_zero_iff m).1 hm))
  · rw [BitVec.toNat_umod, Nat.mul_mod_mod, mul_comm, h]

/-- Settles O23: an inverse inverts back, and each word of the source's example inverts the other. -/
theorem modinvRoundTrips : Obligations.ModinvRoundTrips := by
  unfold Obligations.ModinvRoundTrips
  refine ⟨?_, fun a => if_pos rfl, ?_, ?_⟩
  · intro a m h2 hg
    have hm : m ≠ 0#64 := (word_ne_zero_iff m).2 (by omega)
    obtain ⟨x, hx, -, hinv, -⟩ := modinv_spec a m hm hg
    exact ⟨x, a % m, hx, hinv.trans (Nat.mod_eq_of_lt h2), modinv_of_inverts hm hinv, BitVec.toNat_umod⟩
  · exact modinv_eq_some_of_inverts (by decide) (by decide)
  · exact modinv_eq_some_of_inverts (by decide) (by decide)

/-- Without an exponent DECRYPT takes the next free value in its place and sets its accumulator `noinv` (rules R66,
R78). -/
theorem decryptWith_none {s : State} {r : Run} {l : Word} (h : modinv Config.publicExponent l = none) :
    decryptWith s r l = finishModexp (takeAny s).2 { r with accNoinv := true } r.c (Config.anyU64 s.anys) (r.a * r.b)
      Results.one := by
  rw [decryptWith, h, takeAny_fst]

theorem ofNat_wrappedLcm_toNat_eq_wrappedLcm (x y : Nat) :
    (BitVec.ofNat 64 (wrappedLcm x y)).toNat = wrappedLcm x y := by
  rw [BitVec.toNat_ofNat, Nat.mod_eq_of_lt (wrappedLcm_lt x y)]

/-- Two operands of DECRYPT that are not both 1 are after the subtraction not both 0 (rules R77, R96). -/
theorem sub_one_ne_zero_or_sub_one_ne_zero {a b : Word} (h : ¬(a = 1#64 ∧ b = 1#64)) :
    a - 1#64 ≠ 0#64 ∨ b - 1#64 ≠ 0#64 := by
  bv_omega

/-- A latched DECRYPT on operands that are not both 1 goes on with the integer value of `lcm`, its overflow alone in the
accumulators (rules R77, R96). -/
theorem exec_decrypt_fresh {s : State} {a b c : Word} (hr : s.running = some (Run.fresh .decrypt a b c))
    (h : ¬(a = 1#64 ∧ b = 1#64)) :
    exec .decrypt s = .next (decryptWith s
      { Run.fresh .decrypt a b c with accOvf := decide (2 ^ 64 ≤ (a - 1#64).toNat * (b - 1#64).toNat) }
      (BitVec.ofNat 64 (wrappedLcm (a - 1#64).toNat (b - 1#64).toNat))) := by
  have hl := lcmWord_eq_wrappedLcm (sub_one_ne_zero_or_sub_one_ne_zero h)
  rw [exec, execDecrypt, onRun_some hr, fresh_a, fresh_b, hl]
  rfl

/-- Settles O30: `E` has no inverse modulo the value of `lcm`, and the modulus of the exponentiation is not 0. -/
theorem decryptWithoutInverse : Obligations.DecryptWithoutInverse := by
  unfold Obligations.DecryptWithoutInverse
  intro s a b c hr hab hm hg
  have hnone : modinv Config.publicExponent
      (BitVec.ofNat 64 (wrappedLcm (a - 1#64).toNat (b - 1#64).toNat)) = none :=
    modinv_none _ _ (.inr (by rwa [ofNat_wrappedLcm_toNat_eq_wrappedLcm]))
  calc exec .decrypt s = .next (decryptWith s _ _) := exec_decrypt_fresh hr hab
    _ = .next (finishModexp (takeAny s).2 _ c (Config.anyU64 s.anys) (a * b) Results.one) :=
      congrArg _ (decryptWith_none hnone)
    _ = .next (complete (takeAny s).2 _ _) := congrArg _ (finishModexp_value _ _ _ _ _ _ hm)
    _ = _ := congrArg _ (complete_takeAny_one_fresh s _ a b c _ _ true)

end Sys2Proof.Machine
end

section
/-! The guard of the key search, a conjunction (rule R69), with GENKEY and ENCRYPT once both primes are in hand; and
GENKEY with primes in the generator's range, where the guard never holds (rules R70, R71). -/

namespace Sys2Proof.Machine

/-- The condition of the re-draw loop on integers (rule R69). -/
theorem redrawCondition_iff (l : Word) :
    redrawCondition l = true ↔ l.toNat ≤ 65537 ∧ Nat.gcd 65537 l.toNat ≠ 1 := by
  have hle : l ≤ Config.publicExponent ↔ l.toNat ≤ 65537 := BitVec.le_def
  have hgcd : gcdWord Config.publicExponent l = 1#64 ↔ Nat.gcd 65537 l.toNat = 1 := by
    rw [← BitVec.toNat_inj, gcdWord_toNat]
    rfl
  rw [redrawCondition, Bool.and_eq_true, decide_eq_true_iff, decide_eq_true_iff, hle, ne_eq, hgcd]

/-- Where the guard holds, another `q` is requested and the overflow of `lcm` kept (rules R17, R69). -/
theorem keyGuard_redraw {p q l : Word} {o : Bool} (r : Run) (hl : lcmWord (p - 1#64) (q - 1#64) = .value l o)
    (hc : redrawCondition l = true) : keyGuard p q r = .goOn (requestDraw { r with accOvf := r.accOvf || o }) := by
  simp only [keyGuard, hl, hc, if_true]

/-- Where the guard fails, the pair is taken and the overflow of `lcm` kept (rules R17, R69). -/
theorem keyGuard_found {p q l : Word} {o : Bool} (r : Run) (hl : lcmWord (p - 1#64) (q - 1#64) = .value l o)
    (hc : ¬redrawCondition l = true) : keyGuard p q r = .found p q { r with accOvf := r.accOvf || o } := by
  simp only [keyGuard, hl, if_neg hc]

/-- A prime answer with `p` in hand comes to the guard (rule R69). -/
theorem keyMove_secondPrime {r : Run} {p q : Word} (hs : r.stage = .findQ p) (hd : r.draw = .answered q)
    (hq : Nat.Prime q.toNat) : keyMove r = keyGuard p q r := by
  simp only [keyMove, hd, keyAnswer, (isPrime_iff q).2 hq, hs, if_true]

/-- GENKEY completes with the pair the search returns, and keeps `RES2` (rule R71). -/
theorem exec_genkey_found {s : State} {r r' : Run} {p q : Word} (hr : s.running = some r)
    (hk : keyMove r = .found p q r') :
    exec .genkey s = .next (finishedWith s p q s.res2 r'.accOvf r'.accNoinv) := by
  rw [exec_genkey hr, hk]
  rfl

/-- ENCRYPT announces the pair the search returns (rules R73, R75). -/
theorem exec_encrypt_found {s : State} {r r' : Run} {p q : Word} (hr : s.running = some r)
    (hs : ∀ p q, r.stage ≠ .exponentiate p q) (hk : keyMove r = .found p q r') :
    exec .encrypt s = .next (announceKey s r' p q) := by
  rw [exec_encrypt_search hr hs, hk, followKeyMove]

/-- Settles O25: the condition on integers, and one equation of the guard for each of its answers. -/
theorem keyGuardIsAConjunction : Obligations.KeyGuardIsAConjunction := by
  unfold Obligations.KeyGuardIsAConjunction
  intro s r p q l o hr hst hd hq hl
  have hs : ∀ p q, r.stage ≠ .exponentiate p q := by simp [hst]
  have hmove : keyMove r = keyGuard p q r := keyMove_secondPrime hst hd hq
  rw [← redrawCondition_iff]
  refine ⟨fun hc i hi => ?_, fun hc => ?_⟩
  · exact exec_keySearch_goOn hi hr hs (hmove.trans (keyGuard_redraw r hl hc))
  · have hfound := hmove.trans (keyGuard_found r hl hc)
    exact ⟨exec_genkey_found hr hfound, exec_encrypt_found hr hs hfound⟩

/-- One less than a prime of the generator's range (rule R70). -/
theorem PrimeInDuty.sub_one_range {v : Word} (h : PrimeInDuty v) :
    2 ^ 30 - 1 ≤ (v - 1#64).toNat ∧ (v - 1#64).toNat < 2 ^ 31 := by
  obtain ⟨-, hlo, hhi⟩ := h
  bv_omega

/-- For primes of the generator's range `lcm` does not overflow, and its value is above `E` (rule R70). -/
theorem lcmWord_inDuty {p q : Word} (hp : PrimeInDuty p) (hq : PrimeInDuty q) :
    ∃ l, lcmWord (p - 1#64) (q - 1#64) = .value l false ∧ 65537 < l.toNat := by
  obtain ⟨hplo, hphi⟩ := hp.sub_one_range
  obtain ⟨hqlo, hqhi⟩ := hq.sub_one_range
  have hp0 : p - 1#64 ≠ 0#64 := (word_ne_zero_iff _).2 (by omega)
  have hlt : (p - 1#64).toNat * (q - 1#64).toNat < 2 ^ 64 := (Nat.mul_lt_mul'' hphi hqhi).trans (by norm_num)
  obtain ⟨l, hl, hlcm, -⟩ := gcdTimesLcmIsProduct.1 _ _ (.inl hp0) hlt
  refine ⟨l, hl, ?_⟩
  calc 65537 < (p - 1#64).toNat := by omega
    _ ≤ Nat.lcm (p - 1#64).toNat (q - 1#64).toNat :=
      Nat.le_of_dvd (Nat.lcm_pos (by omega) (by omega)) (Nat.dvd_lcm_left _ _)
    _ = l.toNat := hlcm.symm

/-- Settles O26: `L` is above `E`, so the pair is taken, and no flag was raised on the way to it. -/
theorem genkeyResultInDuty : Obligations.GenkeyResultInDuty := by
  unfold Obligations.GenkeyResultInDuty
  intro s a b c p q hp hq hr
  obtain ⟨l, hl, hgt⟩ := lcmWord_inDuty hp hq
  have hguard : ¬(l.toNat ≤ 65537 ∧ Nat.gcd 65537 l.toNat ≠ 1) := fun h => absurd h.1 (by omega)
  obtain ⟨-, htaken⟩ := keyGuardIsAConjunction s _ p q l false hr rfl rfl hq.1 hl
  exact (htaken hguard).1

end Sys2Proof.Machine
end

section
/-! ENCRYPT with its key in hand: its one event, for primes in the generator's range (rules R73, R75, R76), and the
exponentiation that completes it, for any two primes (rules R73, R74). -/

namespace Sys2Proof.Machine

theorem mul_eq_ofNat (p q : Word) : p * q = BitVec.ofNat 64 (p.toNat * q.toNat) := by
  rw [BitVec.ofNat_mul, BitVec.ofNat_toNat, BitVec.ofNat_toNat, BitVec.setWidth_eq, BitVec.setWidth_eq]

theorem PrimeInDuty.mul_lt {p q : Word} (hp : PrimeInDuty p) (hq : PrimeInDuty q) : p.toNat * q.toNat < 2 ^ 64 := by
  obtain ⟨-, -, hphi⟩ := hp
  obtain ⟨-, -, hqhi⟩ := hq
  exact (Nat.mul_lt_mul'' hphi hqhi).trans (by norm_num)

/-- Settles O27: the product of two numbers below 2^31 fits, and `L` is above `E`, so that the pair is taken. -/
theorem encryptEmitsInfoInDuty : Obligations.EncryptEmitsInfoInDuty := by
  unfold Obligations.EncryptEmitsInfoInDuty
  intro s a b c p q hp hq hr
  refine ⟨BitVec.toNat_mul_of_lt (hp.mul_lt hq), ?_⟩
  obtain ⟨l, hl, hgt⟩ := lcmWord_inDuty hp hq
  have hguard : ¬(l.toNat ≤ 65537 ∧ Nat.gcd 65537 l.toNat ≠ 1) := fun h => absurd h.1 (by omega)
  obtain ⟨-, htaken⟩ := keyGuardIsAConjunction s _ p q l false hr rfl rfl hq.1 hl
  rw [(htaken hguard).2, mul_eq_ofNat p q]
  rfl

theorem coprime_two_pow_of_prime {p : Nat} (hp : Nat.Prime p) (h2 : p ≠ 2) : Nat.Coprime (2 ^ 64) p :=
  (hp.odd_of_ne_two h2).coprime_two_left.pow_left 64

/-- The wrapped product of two primes is not 0 (rule R74): 2^64 is coprime to an odd one of them and would divide the
other, a word; and 2 * 2 is 4. -/
theorem mul_ne_zero_of_primes {p q : Word} (hp : Nat.Prime p.toNat) (hq : Nat.Prime q.toNat) : p * q ≠ 0#64 := by
  rw [word_ne_zero_iff, BitVec.toNat_mul]
  intro h
  have hdvd : 2 ^ 64 ∣ p.toNat * q.toNat := Nat.dvd_of_mod_eq_zero h
  by_cases hp2 : p.toNat = 2
  · by_cases hq2 : q.toNat = 2
    · rw [hp2, hq2] at h
      exact absurd h (by decide)
    · have := (coprime_two_pow_of_prime hq hq2).dvd_of_dvd_mul_right hdvd
      exact absurd (Nat.le_of_dvd hp.pos this) (Nat.not_le.2 p.isLt)
  · have := (coprime_two_pow_of_prime hp hp2).dvd_of_dvd_mul_left hdvd
    exact absurd (Nat.le_of_dvd hq.pos this) (Nat.not_le.2 q.isLt)

/-- The last move of ENCRYPT is the exponentiation (rule R73). -/
theorem exec_encrypt_exponentiate {s : State} {r : Run} {p q : Word} (hr : s.running = some r)
    (hst : r.stage = .exponentiate p q) :
    exec .encrypt s = .next (finishModexp s r r.a Config.publicExponent (p * q) (Results.three p q)) := by
  rw [exec, execEncrypt, onRun_some hr, hst]

/-- Settles O28: the modulus is not 0, so that the exponentiation completes. -/
theorem encryptResult : Obligations.EncryptResult := by
  unfold Obligations.EncryptResult
  intro s r p q hp hq hr hst
  rw [exec_encrypt_exponentiate hr hst, finishModexp_value _ _ _ _ _ _ (mul_ne_zero_of_primes hp hq)]
  rfl

/-- A run that is fresh but for its stage completes ENCRYPT with the exact modulus and no flag (rules R73, R76). -/
theorem exec_encrypt_exponentiate_fresh {s : State} {msg b c p q : Word} (hp : Nat.Prime p.toNat)
    (hq : Nat.Prime q.toNat) (hlt : p.toNat * q.toNat < 2 ^ 64)
    (hr : s.running = some { Run.fresh .encrypt msg b c with stage := .exponentiate p q }) :
    exec .encrypt s =
      .next (finishedWith s p q (modexpValue msg.toNat 65537 (p.toNat * q.toNat)) false false) := by
  rw [← BitVec.toNat_mul_of_lt hlt]
  exact encryptResult s _ p q hp hq hr rfl

end Sys2Proof.Machine
end

section
/-! A whole ENCRYPT with an in-duty source: the search for `p`, the search for `q`, the event and the exponentiation
(rules R73 to R75, R90). -/

namespace Sys2Proof.Machine

/-- The core's turn on a fresh GENKEY or ENCRYPT requests the first draw for `p` (rule R69). -/
theorem step_keySearch_start {s : State} {r : Run} {l : List Agent} (hi : r.op = .genkey ∨ r.op = .encrypt)
    (hr : s.running = some r) (hst : r.stage = .start) (hd : r.draw = .idle) (hs : s.schedule = .core :: l) :
    step s = .next (goOn { s with schedule := l } { r with stage := .findP, draw := dutyRequest }) := by
  obtain ⟨hrequest, -, -⟩ := keySearchMoves { s with schedule := l } r r.op hi hr
  exact (step_scheduled_core hs hr).trans (hrequest hst hd)

/-- GENKEY and ENCRYPT looking for a prime draw again after an answer that is not one (rules R55, R69). -/
theorem keySearch_drawsAgain {r : Run} (hi : r.op = .genkey ∨ r.op = .encrypt)
    (hst : r.stage = .findP ∨ ∃ p, r.stage = .findQ p) : r.drawsAgain := by
  intro s v hv
  obtain ⟨-, hseek, -⟩ := keySearchMoves (goOn s { r with draw := .answered v }) _ r.op hi rfl
  exact (hseek hst).2 v rfl hv

/-- A command that draws again after an answer that is not prime uses up such answers, and then makes the move `t` it
has for the answer `v` (rules R55, R90). -/
theorem runSteps_drawUntil {r : Run} (h : r.drawsAgain) {s t : State} {xs rest : List Word} {v : Word} {l : List Agent}
    (hxs : ∀ x ∈ xs, ¬Nat.Prime x.toNat) (ha : s.answers = xs ++ v :: rest)
    (hs : s.schedule = drawTurns (xs.length + 1) ++ l)
    (he : exec r.op (goOn (s.drawn (xs ++ [v]) rest l) { r with draw := .answered v }) = .next t) (k : Nat) :
    runSteps (2 * xs.length + (k + 2)) (goOn s { r with draw := dutyRequest }) = runSteps k t := by
  rw [drawTurns_add, List.append_assoc] at hs
  rw [runSteps_discard h hxs (k + 2) s ha hs]
  refine runSteps_draw r rfl rfl ?_ k
  rwa [drawn_drawn]

/-- The search of a fresh GENKEY or ENCRYPT for `p` ends with the first prime answer, and the first draw for `q` is
requested (rules R69, R90). -/
theorem runSteps_findP {s : State} {xs rest : List Word} {l : List Agent} {r : Run} {p : Word}
    (hi : r.op = .genkey ∨ r.op = .encrypt) (hr : s.running = some r) (hst : r.stage = .start) (hd : r.draw = .idle)
    (hxs : ∀ x ∈ xs, ¬Nat.Prime x.toNat) (hp : Nat.Prime p.toNat) (ha : s.answers = xs ++ p :: rest)
    (hs : s.schedule = .core :: (drawTurns (xs.length + 1) ++ l)) (k : Nat) :
    runSteps (2 * xs.length + (k + 2) + 1) s =
      runSteps k (goOn (s.drawn (xs ++ [p]) rest l) { r with stage := .findQ p, draw := dutyRequest }) := by
  have hsearch : Run.drawsAgain { r with stage := .findP } := keySearch_drawsAgain hi (.inl rfl)
  obtain ⟨-, -, hfirst⟩ := keySearchMoves
    (goOn (s.drawn (xs ++ [p]) rest l) { r with stage := .findP, draw := .answered p }) _ r.op hi rfl
  rw [runSteps_of_step (step_keySearch_start hi hr hst hd hs)]
  exact runSteps_drawUntil (s := { s with schedule := drawTurns (xs.length + 1) ++ l }) hsearch hxs ha rfl
    (hfirst p rfl rfl hp) k

/-- ENCRYPT with `p` in hand and the first draw for `q` requested: the search for `q`, the event, and the exponentiation
(rules R73 to R76). -/
theorem runSteps_encrypt_findQ {s : State} {ys rest : List Word} {l : List Agent} {p q : Word} (msg b c : Word)
    (hp : PrimeInDuty p) (hq : PrimeInDuty q) (hys : ∀ y ∈ ys, ¬Nat.Prime y.toNat)
    (ha : s.answers = ys ++ q :: rest) (hs : s.schedule = drawTurns (ys.length + 1) ++ .core :: l) :
    runSteps (2 * ys.length + 3)
        (goOn s { Run.fresh .encrypt msg b c with stage := .findQ p, draw := dutyRequest }) =
      .next { finishedWith (s.drawn (ys ++ [q]) rest l) p q (modexpValue msg.toNat 65537 (p.toNat * q.toNat)) false
        false with infos := s.infos ++ [⟨p, q, BitVec.ofNat 64 (p.toNat * q.toNat)⟩] } := by
  obtain ⟨-, hinfo⟩ := encryptEmitsInfoInDuty
    (goOn (s.drawn (ys ++ [q]) rest (.core :: l))
      { Run.fresh .encrypt msg b c with stage := .findQ p, draw := .answered q }) msg b c p q hp hq rfl
  have hsearch : Run.drawsAgain { Run.fresh .encrypt msg b c with stage := .findQ p } :=
    keySearch_drawsAgain (.inr rfl) (.inr ⟨p, rfl⟩)
  rw [runSteps_drawUntil hsearch hys ha hs hinfo 1]
  exact runSteps_of_step ((step_scheduled_core rfl rfl).trans
    (exec_encrypt_exponentiate_fresh hp.1 hq.1 (hp.mul_lt hq) rfl)) 0

/-- Settles O33: the turns are those of the search for `p`, those of the search for `q`, and one for the
exponentiation. -/
theorem encryptRunCompletes : Obligations.EncryptRunCompletes := by
  unfold Obligations.EncryptRunCompletes
  intro s msg b c p q xs ys rest l hr hp hq hxs hys ha hs
  have hturns : drawTurns (xs.length + ys.length + 2) ++ Agent.core :: l =
      drawTurns (xs.length + 1) ++ (drawTurns (ys.length + 1) ++ .core :: l) := by
    rw [← List.append_assoc, ← drawTurns_add]
    congr 2
    omega
  rw [List.cons_append, hturns] at hs
  have hsteps : 2 * xs.length + 2 * ys.length + 6 = 2 * xs.length + (2 * ys.length + 3 + 2) + 1 := by omega
  rw [hsteps, runSteps_findP (.inr rfl) hr rfl rfl hxs hp.1 ha hs]
  refine (runSteps_encrypt_findQ msg b c hp hq hys rfl rfl).trans ?_
  rw [drawn_drawn, ← List.append_assoc]
  rfl

end Sys2Proof.Machine
end

section
/-! DECRYPT where its exponent exists: its result (rules R77, R78), and the correctness of RSA (rule R79). -/

namespace Sys2Proof.Machine

/-- With its exponent DECRYPT goes on to the exponentiation (rule R77). -/
theorem decryptWith_some {s : State} {r : Run} {l d : Word} (h : modinv Config.publicExponent l = some d) :
    decryptWith s r l = finishModexp s r r.c d (r.a * r.b) Results.one := by
  rw [decryptWith, h]

/-- Settles O29: `modinv` answers the one inverse of `E`, and the modulus of the exponentiation is not 0. -/
theorem decryptResult : Obligations.DecryptResult := by
  unfold Obligations.DecryptResult
  intro s a b c hr hab hm hl hg
  have hL := ofNat_wrappedLcm_toNat_eq_wrappedLcm (a - 1#64).toNat (b - 1#64).toNat
  obtain ⟨d, hd, hinv⟩ := modinv_spec Config.publicExponent
    (BitVec.ofNat 64 (wrappedLcm (a - 1#64).toNat (b - 1#64).toNat)) ((word_ne_zero_iff _).2 (by rwa [hL]))
    (by rwa [hL])
  rw [hL] at hinv
  refine ⟨d, hinv, ?_⟩
  calc exec .decrypt s = .next (decryptWith s _ _) := exec_decrypt_fresh hr hab
    _ = .next (finishModexp s _ c d (a * b) Results.one) := congrArg _ (decryptWith_some hd)
    _ = .next (complete s _ _) := congrArg _ (finishModexp_value _ _ _ _ _ _ hm)
    _ = _ := congrArg _ (complete_one_fresh_ovf s _ a b c _ _)

/-- Modulo a prime `p` an exponent that is 1 modulo `p - 1` gives the base back, a multiple of `p` included. -/
theorem pow_modEq_self_of_prime {p k : Nat} (hp : Nat.Prime p) (hpos : 0 < k) (hk : k ≡ 1 [MOD p - 1]) (x : Nat) :
    x ^ k ≡ x [MOD p] := by
  have hdvd : p - 1 ∣ k - 1 := (Nat.modEq_iff_dvd' hpos).1 hk.symm
  have h := Int.ModEq.pow_eq_pow hp hdvd hpos one_pos x
  rw [pow_one] at h
  exact_mod_cast h

/-- The correctness of RSA with the exponent of the group modulo `p * q` (rule R79). -/
theorem pow_modEq_self_of_primes {p q k : Nat} (hp : Nat.Prime p) (hq : Nat.Prime q) (hpq : p ≠ q) (hpos : 0 < k)
    (hk : k ≡ 1 [MOD Nat.lcm (p - 1) (q - 1)]) (x : Nat) : x ^ k ≡ x [MOD p * q] :=
  (Nat.modEq_and_modEq_iff_modEq_mul ((Nat.coprime_primes hp hq).2 hpq)).1
    ⟨pow_modEq_self_of_prime hp hpos (hk.of_dvd (Nat.dvd_lcm_left _ _)) x,
      pow_modEq_self_of_prime hq hpos (hk.of_dvd (Nat.dvd_lcm_right _ _)) x⟩

/-- Of two distinct primes one is odd, so that the exponent of the group is at least 2 (rule R79). -/
theorem one_lt_lcm_of_primes {p q : Nat} (hp : Nat.Prime p) (hq : Nat.Prime q) (hpq : p ≠ q) :
    1 < Nat.lcm (p - 1) (q - 1) := by
  have hp2 := hp.two_le
  have hq2 := hq.two_le
  have hpos : 0 < Nat.lcm (p - 1) (q - 1) := Nat.lcm_pos (by omega) (by omega)
  have hple := Nat.le_of_dvd hpos (Nat.dvd_lcm_left (p - 1) (q - 1))
  have hqle := Nat.le_of_dvd hpos (Nat.dvd_lcm_right (p - 1) (q - 1))
  omega

/-- `modexp` with a non-zero exponent on a modulus of at least 1 is the remainder of the power. -/
theorem modexpValue_toNat_of_pos {x y m : Nat} (hy : y ≠ 0) (hpos : 0 < m) (hm : m < 2 ^ 64) :
    (modexpValue x y m).toNat = x ^ y % m :=
  modexpValue_toNat hpos hm (fun _ h => absurd h hy) fun _ h => absurd h hy

/-- The exponentiations of ENCRYPT and DECRYPT undo each other (rule R79). -/
theorem modexpValue_modexpValue {p q e d : Nat} {msg : Word} (hp : Nat.Prime p) (hq : Nat.Prime q) (hpq : p ≠ q)
    (hlt : p * q < 2 ^ 64) (hmsg : msg.toNat < p * q) (hed : e * d ≡ 1 [MOD Nat.lcm (p - 1) (q - 1)]) :
    modexpValue (modexpValue msg.toNat e (p * q)).toNat d (p * q) = msg := by
  have hn : 0 < p * q := Nat.mul_pos hp.pos hq.pos
  have hed0 : e * d ≠ 0 := by
    intro h0
    rw [h0, Nat.ModEq, Nat.zero_mod, Nat.mod_eq_of_lt (one_lt_lcm_of_primes hp hq hpq)] at hed
    exact absurd hed zero_ne_one
  obtain ⟨he0, hd0⟩ := mul_ne_zero_iff.1 hed0
  apply BitVec.eq_of_toNat_eq
  rw [modexpValue_toNat_of_pos hd0 hn hlt, modexpValue_toNat_of_pos he0 hn hlt]
  calc (msg.toNat ^ e % (p * q)) ^ d % (p * q) = msg.toNat ^ (e * d) % (p * q) := by rw [← Nat.pow_mod, ← pow_mul]
    _ = msg.toNat % (p * q) := pow_modEq_self_of_primes hp hq hpq (Nat.pos_of_ne_zero hed0) hed _
    _ = msg.toNat := Nat.mod_eq_of_lt hmsg

theorem sub_one_toNat_of_prime {p : Word} (hp : Nat.Prime p.toNat) : (p - 1#64).toNat = p.toNat - 1 := by
  have := hp.two_le
  bv_omega

/-- Settles O31: the product and `L` are exact, so that DECRYPT's exponent inverts ENCRYPT's. -/
theorem decryptRecoversTheMessage : Obligations.DecryptRecoversTheMessage := by
  unfold Obligations.DecryptRecoversTheMessage
  intro s p q msg ct hp hq hpq hlt hg hmsg hct hr
  have hpq' : p.toNat ≠ q.toNat := mt BitVec.eq_of_toNat_eq hpq
  have hm := mul_ne_zero_of_primes hp hq
  have hproduct : (p.toNat - 1) * (q.toNat - 1) < 2 ^ 64 :=
    (Nat.mul_le_mul (Nat.sub_le _ _) (Nat.sub_le _ _)).trans_lt hlt
  have hL : wrappedLcm (p - 1#64).toNat (q - 1#64).toNat = Nat.lcm (p.toNat - 1) (q.toNat - 1) := by
    rw [sub_one_toNat_of_prime hp, sub_one_toNat_of_prime hq, wrappedLcm_eq_lcm hproduct]
  have hL1 := one_lt_lcm_of_primes hp hq hpq'
  obtain ⟨d, ⟨-, hed, -⟩, he⟩ := decryptResult s p q ct hr (fun h => hpq (h.1.trans h.2.symm)) hm
    (by omega) (by rwa [hL])
  rw [hL] at hed
  have hct' : ct = modexpValue msg.toNat 65537 (p.toNat * q.toNat) := by
    rw [modexp_eq_value _ _ _ hm, BitVec.toNat_mul_of_lt hlt] at hct
    exact (Option.some.inj hct).symm
  rw [he, BitVec.toNat_mul_of_lt hlt, sub_one_toNat_of_prime hp, sub_one_toNat_of_prime hq,
    decide_eq_false (Nat.not_le.2 hproduct), hct', modexpValue_modexpValue hp hq hpq' hlt hmsg hed]

end Sys2Proof.Machine
end

section
/-! Command words: what a `CMD` write does (rules R82, R86), what the core's turn runs (rule R83), and that a move
depends on nothing but the latched command, `STATUS` and the free values (rule R92). -/

namespace Sys2Proof.Machine

/-- A `CMD` write while RUNNING or HALTED is ignored (rule R86). -/
theorem presentCommand_ignored {s : State} (w : Word) (h : s.busy = true ∨ s.fatal = true) :
    presentCommand w s = s := by
  rcases presentCommand_cases w s with ⟨_, hsame⟩ | ⟨hb, hf, _⟩ | ⟨hb, hf, _⟩
  · exact hsame
  · simp [hb, hf] at h
  · simp [hb, hf] at h

/-- The decoder refuses a word that is no command's (rule R43). -/
theorem decode_bad_of_ne_encode {w : Word} (h : ∀ i, w ≠ encode i) : ∃ why, decode w = .bad why := by
  cases hd : decode w with
  | ok i => exact absurd ((decode_eq_ok_iff w i).1 hd) (h i)
  | bad why => exact ⟨why, rfl⟩

/-- A `cmd` line is the write of its word to `CMD` (rule R44). -/
theorem runLine_cmd (w : Word) (s : State) : runLine (.cmd w) s = .next (regWrite 3#3 w s) := rfl

/-- Settles O7: the decoder accepts exactly the commands' words, and a `cmd` line is the write on the host's turn. -/
theorem commandWriteAcceptsOrFaults : Obligations.CommandWriteAcceptsOrFaults := by
  unfold Obligations.CommandWriteAcceptsOrFaults
  refine ⟨fun s w hb hf => ⟨fun i hw => ?_, fun hw => ?_⟩, fun s w rest ha hs => ?_⟩
  · exact presentCommand_ok hb hf ((decode_eq_ok_iff w i).2 hw)
  · obtain ⟨why, hd⟩ := decode_bad_of_ne_encode hw
    exact presentCommand_bad hb hf hd
  · rw [step_host ha hs, runLine_cmd]

/-- Settles O8: the write is ignored, in the state of the host's turn as in any other. -/
theorem commandWritesIgnoredWhileBusyOrHalted : Obligations.CommandWritesIgnoredWhileBusyOrHalted := by
  unfold Obligations.CommandWritesIgnoredWhileBusyOrHalted
  refine ⟨fun s w h => presentCommand_ignored w h, fun s w rest h ha hs => ?_⟩
  rw [step_host ha hs, runLine_cmd]
  exact congrArg _ (presentCommand_ignored w h)

/-- A placed command word is latched as accept latches it, on a core that is not HALTED (log entry 8). -/
theorem withFetchWord_of_decoded {nbits w : Nat} {i : Instr} (s : State) (h : decodeTableWord nbits w = some i) :
    s.withFetchWord nbits w =
      { accept i s with fatal := false, fault := 0x00#8, schedule := coreFirst s.schedule } := by
  rw [State.withFetchWord, h, placeCommand]

/-- A core with a command just latched moves first under `coreFirst` (log entries 4 and 8). -/
theorem nextAgent_coreFirst {s : State} {op : Instr} {a b c : Word} {l : List Agent}
    (hr : s.running = some (Run.fresh op a b c)) (hs : s.schedule = coreFirst l) : s.nextAgent = .core := by
  cases l with
  | nil =>
    have hready : s.coreReady = true := by simp [State.coreReady, hr, Draw.request?]
    rw [nextAgent_nil hs, if_pos hready]
  | cons agent rest => exact nextAgent_cons hs

/-- The core's first turn taken, the schedule is what it was. -/
theorem coreFirst_tail (l : List Agent) : (coreFirst l).tail = l := by
  cases l <;> rfl

/-- Settles O6: the core's turn runs the latched command, and a placed word gives the core the next turn. -/
theorem stepRunsTheLatchedCommand : Obligations.StepRunsTheLatchedCommand := by
  unfold Obligations.StepRunsTheLatchedCommand
  refine ⟨fun s r ha hr => step_core ha hr, fun s nbits w i h => ?_⟩
  have hplaced := withFetchWord_of_decoded s h
  have hr : (s.withFetchWord nbits w).running = some (Run.fresh i s.opa s.opb s.opc) := by rw [hplaced]; rfl
  have hs : (s.withFetchWord nbits w).schedule = coreFirst s.schedule := by rw [hplaced]
  refine ⟨hr, ?_⟩
  rw [step_core (nextAgent_coreFirst hr hs) hr, popTurn, hs, coreFirst_tail, fresh_op]

/-- The two states hold the same command and working state, the same fields of `STATUS`, and the same next free
value: all that a move of the core reads (rule R92). -/
structure SameCore (s u : State) : Prop where
  running : s.running = u.running
  busy : s.busy = u.busy
  doneFlag : s.doneFlag = u.doneFlag
  fatal : s.fatal = u.fatal
  ovf : s.ovf = u.ovf
  noinv : s.noinv = u.noinv
  fault : s.fault = u.fault
  anys : s.anys = u.anys

/-- The two states have the same core, and if the command `op` has completed, the same values in the registers it
writes (rule R42). -/
structure AlikeAfter (op : Instr) (t v : State) : Prop extends SameCore t v where
  written : t.doneFlag = true → ∀ x ∈ writesOf op, t.readReg x = v.readReg x

/-- The registers that `complete` gives a value of `out` (rule R42). -/
def Results.regs (out : Results) : List Reg :=
  .res0 :: ((if out.res1.isSome then [.res1] else []) ++ (if out.res2.isSome then [.res2] else []))

/-- What `complete` writes into a register does not depend on the state it completes in. -/
theorem complete_readReg_of_mem_regs (s u : State) (r : Run) {out : Results} {x : Reg} (hx : x ∈ out.regs) :
    (complete s r out).readReg x = (complete u r out).readReg x := by
  cases x with
  | res0 => rfl
  | res1 =>
    obtain ⟨w, hw⟩ : ∃ w, out.res1 = some w := Option.isSome_iff_exists.1 (by simpa [Results.regs] using hx)
    simp [State.readReg, hw]
  | res2 =>
    obtain ⟨w, hw⟩ : ∃ w, out.res2 = some w := Option.isSome_iff_exists.1 (by simpa [Results.regs] using hx)
    simp [State.readReg, hw]
  | _ => simp [Results.regs] at hx

theorem SameCore.statusWord {s u : State} (h : SameCore s u) : s.statusWord = u.statusWord := by
  simp only [State.statusWord, h.fault, h.noinv, h.ovf, h.fatal, h.doneFlag, h.busy]

/-- The invariant fixes `STATUS` while a command is latched, so the command and the free values make the core. -/
theorem State.Inv.sameCore {s u : State} {r : Run} (hs : s.Inv) (hu : u.Inv) (hsr : s.running = some r)
    (hur : u.running = some r) (ha : s.anys = u.anys) : SameCore s u := by
  obtain ⟨hsd, hsf⟩ := hs.not_done_not_fatal hsr
  obtain ⟨hud, huf⟩ := hu.not_done_not_fatal hur
  obtain ⟨hso, hsn⟩ := hs.flags_low hsd
  obtain ⟨huo, hun⟩ := hu.flags_low hud
  exact {
    running := hsr.trans hur.symm
    busy := (hs.busy_of_running hsr).trans (hu.busy_of_running hur).symm
    doneFlag := hsd.trans hud.symm
    fatal := hsf.trans huf.symm
    ovf := hso.trans huo.symm
    noinv := hsn.trans hun.symm
    fault := (hs.fault_zero hsf).trans (hu.fault_zero huf).symm
    anys := ha }

section
variable {op : Instr} {s u : State} (h : SameCore s u)
include h

theorem SameCore.takeAny : SameCore (takeAny s).2 (takeAny u).2 :=
  { h with anys := congrArg (· + 1) h.anys }

theorem SameCore.emitInfo (p q n : Word) : SameCore (emitInfo p q n s) (emitInfo p q n u) := { h with }

/-- Where no command has completed there are no results to compare. -/
theorem SameCore.alike_of_not_done (hd : s.doneFlag = false) : AlikeAfter op s u :=
  { h with written := fun ht => by simp [hd] at ht }

theorem raiseFatal_alike (code : FaultCode) : AlikeAfter op (raiseFatal code s) (raiseFatal code u) :=
  SameCore.alike_of_not_done ⟨rfl, rfl, rfl, rfl, rfl, rfl, rfl, h.anys⟩ rfl

/-- A command that completes with results for all registers it writes leaves the same values in them. -/
theorem complete_alike (r : Run) {out : Results} (hout : writesOf op = out.regs) :
    AlikeAfter op (complete s r out) (complete u r out) where
  running := rfl
  busy := rfl
  doneFlag := rfl
  fatal := h.fatal
  ovf := rfl
  noinv := rfl
  fault := h.fault
  anys := h.anys
  written := fun _ _ hx => complete_readReg_of_mem_regs s u r (hout ▸ hx)

theorem finishModexp_alike (r : Run) (x y m : Word) {out : Word → Results}
    (hout : ∀ w, writesOf op = (out w).regs) :
    AlikeAfter op (finishModexp s r x y m out) (finishModexp u r x y m out) := by
  unfold finishModexp
  cases modexp x y m with
  | none => exact raiseFatal_alike h _
  | some w => exact complete_alike h r (hout w)

/-- Where DECRYPT's exponent has no inverse, both take the same free value (log entry 2). -/
theorem decryptWith_alike (r : Run) (l : Word) : AlikeAfter .decrypt (decryptWith s r l) (decryptWith u r l) := by
  unfold decryptWith
  cases modinv Config.publicExponent l with
  | none =>
    rw [takeAny_fst, takeAny_fst, h.anys]
    exact finishModexp_alike h.takeAny _ _ _ _ fun _ => rfl
  | some d => exact finishModexp_alike h r _ _ _ fun _ => rfl

variable (hd : s.doneFlag = false)
include hd

theorem goOn_alike (r : Run) : AlikeAfter op (goOn s r) (goOn u r) :=
  SameCore.alike_of_not_done { h with running := rfl } hd

theorem primegenMove_alike (r : Run) : AlikeAfter .primegen (primegenMove s r) (primegenMove u r) := by
  cases hdraw : r.draw with
  | idle => simp only [primegenMove_idle hdraw]; exact goOn_alike h hd _
  | requested lo hi => simp only [primegenMove_requested hdraw]; exact h.alike_of_not_done hd
  | answered v =>
    cases hv : isPrime v with
    | false => simp only [primegenMove_notPrime hdraw hv]; exact goOn_alike h hd _
    | true => simp only [primegenMove_prime hdraw hv]; exact complete_alike h r rfl

theorem followKeyMove_alike {found found' : Word → Word → Run → State}
    (hfound : ∀ p q r, AlikeAfter op (found p q r) (found' p q r)) (m : KeyMove) :
    AlikeAfter op (followKeyMove s found m) (followKeyMove u found' m) := by
  cases m with
  | goOn r => exact goOn_alike h hd r
  | wait => exact h.alike_of_not_done hd
  | found p q r => exact hfound p q r
  | divZero => exact raiseFatal_alike h _

theorem announceKey_alike (r : Run) (p q : Word) : AlikeAfter op (announceKey s r p q) (announceKey u r p q) :=
  goOn_alike (h.emitInfo p q (p * q)) hd _

/-- Moves that are alike on every latched command are alike as turns. -/
theorem onRun_alike {t v : State} {move move' : Run → State} (hmove : ∀ r, AlikeAfter op (move r) (move' r))
    (hs : onRun s move = .next t) (hu : onRun u move' = .next v) : AlikeAfter op t v := by
  rcases onRun_cases hs with ⟨r, hr, rfl⟩ | ⟨hr, rfl⟩
  · rw [onRun_some (h.running ▸ hr)] at hu
    cases hu
    exact hmove r
  · rw [onRun_none (h.running ▸ hr)] at hu
    cases hu
    exact h.alike_of_not_done hd

/-- Every command moves alike in two states with the same core. -/
theorem exec_alike {t v : State} (hs : exec op s = .next t) (hu : exec op u = .next v) : AlikeAfter op t v := by
  cases op with
  | modexp => exact onRun_alike h hd (fun r => finishModexp_alike h r _ _ _ fun _ => rfl) hs hu
  | primality => exact onRun_alike h hd (fun r => complete_alike h r rfl) hs hu
  | primegen => exact onRun_alike h hd (primegenMove_alike h hd) hs hu
  | gcd => exact onRun_alike h hd (fun r => complete_alike h r rfl) hs hu
  | lcm =>
    refine onRun_alike h hd (fun r => ?_) hs hu
    cases lcmWord r.a r.b with
    | value v o => exact complete_alike h _ rfl
    | divZero => exact raiseFatal_alike h _
  | modinv =>
    refine onRun_alike h hd (fun r => ?_) hs hu
    cases modinv r.a r.b with
    | some x => exact complete_alike h r rfl
    | none =>
      simp only [takeAny_fst, h.anys]
      exact complete_alike h.takeAny _ rfl
  | genkey =>
    rw [exec, execGenkey_eq_follow] at hs hu
    exact onRun_alike h hd
      (fun r => followKeyMove_alike h hd (fun _ _ r' => complete_alike h r' rfl) (keyMove r)) hs hu
  | encrypt =>
    refine onRun_alike h hd (fun r => ?_) hs hu
    have search := followKeyMove_alike (op := .encrypt) h hd (fun p q r' => announceKey_alike h hd r' p q) (keyMove r)
    cases r.stage with
    | exponentiate p q => exact finishModexp_alike h r _ _ _ fun _ => rfl
    | _ => exact search
  | decrypt =>
    refine onRun_alike h hd (fun r => ?_) hs hu
    cases lcmWord (r.a - 1#64) (r.b - 1#64) with
    | divZero => exact raiseFatal_alike h _
    | value l o => exact decryptWith_alike h _ l

end

/-- Settles O50: the invariant makes the cores the same, and every operation of a move keeps them so. -/
theorem commandsAreIndependent : Obligations.CommandsAreIndependent := by
  unfold Obligations.CommandsAreIndependent
  intro s u t v r hs hu hsr hur ha ht hv
  have halike := exec_alike (hs.sameCore hu hsr hur ha) (hs.not_done_not_fatal hsr).1 ht hv
  exact ⟨halike.running, halike.statusWord, halike.anys, halike.written⟩

end Sys2Proof.Machine
end

section
/-! The hardware's faults: where `ZERO_MODULUS` and `DIV_ZERO` halt the core (rules R95, R96), that a halted core stays
halted until reset (rule R100), and the six commands that never fault (rule R94). -/

namespace Sys2Proof.Machine

theorem finishModexp_zeroModulus {m : Word} (s : State) (r : Run) (x y : Word) (out : Word → Results)
    (hm : m = 0#64) : finishModexp s r x y m out = haltedWith s 0x01#8 := by
  rw [finishModexp, (modexp_eq_none_iff x y m).2 hm]
  rfl

/-- A latched DECRYPT whose `lcm` does not fault goes on with its value, `ovf` in the accumulator (rule R77). -/
theorem exec_decrypt_value {s : State} {r : Run} {l : Word} {o : Bool} (hr : s.running = some r)
    (hl : lcmWord (r.a - 1#64) (r.b - 1#64) = .value l o) :
    exec .decrypt s = .next (decryptWith s { r with accOvf := r.accOvf || o } l) := by
  rw [exec, execDecrypt, onRun_some hr, hl]

theorem exec_lcm_divZero {s : State} {r : Run} (hr : s.running = some r) (hl : lcmWord r.a r.b = .divZero) :
    exec .lcm s = .next (haltedWith s 0x02#8) := by
  rw [exec, execLcm, onRun_some hr, hl]
  rfl

theorem exec_decrypt_divZero {s : State} {r : Run} (hr : s.running = some r)
    (hl : lcmWord (r.a - 1#64) (r.b - 1#64) = .divZero) : exec .decrypt s = .next (haltedWith s 0x02#8) := by
  rw [exec, execDecrypt, onRun_some hr, hl]
  rfl

/-- DECRYPT's exponentiation with a zero modulus halts, and takes at most one free value on the way to it (rule R95, log
entry 2). -/
theorem decryptWith_zeroModulus {s : State} {r : Run} (l : Word) (hm : r.a * r.b = 0#64) :
    ∃ k, (k = s.anys ∨ k = s.anys + 1) ∧ decryptWith s r l = { haltedWith s 0x01#8 with anys := k } := by
  rcases decryptWith_cases s r l with ⟨d, -, h⟩ | ⟨-, h⟩
  · exact ⟨s.anys, .inl rfl, h.trans (finishModexp_zeroModulus s _ _ _ _ hm)⟩
  · exact ⟨s.anys + 1, .inr rfl, h.trans (finishModexp_zeroModulus (takeAny s).2 _ _ _ _ hm)⟩

/-- Settles O10: both commands end in an exponentiation with a zero modulus; DECRYPT comes to it, because operands that
are both 1 have the product 1. -/
theorem zeroModulusHalts : Obligations.ZeroModulusHalts := by
  unfold Obligations.ZeroModulusHalts
  intro s r hr
  refine ⟨fun hc => ?_, fun hm => ?_⟩
  · rw [exec_modexp hr, finishModexp_zeroModulus _ _ _ _ _ hc]
  · have hab : ¬(r.a = 1#64 ∧ r.b = 1#64) := fun ⟨ha, hb⟩ => by simp [ha, hb] at hm
    have hl := lcmWord_value _ _ (sub_one_ne_zero_or_sub_one_ne_zero hab)
    simp only [exec_decrypt_value hr hl, Host.Outcome.next.injEq]
    exact decryptWith_zeroModulus _ hm

/-- Settles O11: LCM hands its operands to `lcm`, DECRYPT each of them less 1. -/
theorem divZeroHalts : Obligations.DivZeroHalts := by
  unfold Obligations.DivZeroHalts
  refine ⟨lcmWord_divZero_iff, fun s r hr => ⟨fun ha hb => ?_, fun ha hb => ?_⟩⟩
  · exact exec_lcm_divZero hr ((lcmWord_divZero_iff _ _).2 ⟨ha, hb⟩)
  · exact exec_decrypt_divZero hr ((lcmWord_divZero_iff _ _).2 ⟨by rw [ha]; rfl, by rw [hb]; rfl⟩)

/-- A HALTED core has no command latched (rules R16, R20). -/
theorem State.Inv.running_eq_none {s : State} (h : s.Inv) (hf : s.fatal = true) : s.running = none := by
  cases hr : s.running with
  | none => rfl
  | some r => simp [(h.not_done_not_fatal hr).2] at hf

/-- Settles O43: a halted core has nothing to move and no draw to be answered, and accepts no command word, so that a
step is quiet or a reset. -/
theorem haltedUntilReset : Obligations.HaltedUntilReset := by
  unfold Obligations.HaltedUntilReset
  intro s t hinv hf hnr h
  have hnone : s.running = none := hinv.running_eq_none hf
  cases step_stepMove h with
  | quiet => exact ⟨hf, rfl, hnone, rfl, rfl, rfl, rfl, rfl⟩
  | accept w op _ _ hf' _ => simp [hf] at hf'
  | illegal w why _ _ hf' _ => simp [hf] at hf'
  | reset hr => exact absurd hr hnr
  | core r _ hr _ => simp [hnone] at hr
  | answer r _ _ _ _ _ hr _ _ => simp [hnone] at hr

/-- `lcm` of two primes less one does not fault: a prime less one is not 0 (rule R70). -/
theorem lcmWord_ne_divZero_of_prime {p : Word} (q : Word) (hp : Nat.Prime p.toNat) :
    lcmWord (p - 1#64) (q - 1#64) ≠ .divZero := by
  intro h
  have h0 : (p - 1#64).toNat = 0 := (word_eq_zero_iff _).1 ((lcmWord_divZero_iff _ _).1 h).1
  have := hp.two_le
  rw [sub_one_toNat_of_prime hp] at h0
  omega

/-- In the exponentiation of a legal run both numbers are prime (rule R73). -/
theorem Run.legal.primes {r : Run} {p q : Word} (h : r.legal) (hs : r.stage = .exponentiate p q) :
    isPrime p = true ∧ isPrime q = true := by
  obtain ⟨-, hst⟩ := h
  rw [hs] at hst
  exact hst.2.2

/-- A move of a legal run of a command other than MODEXP, LCM and DECRYPT leaves `FATAL` (rules R70, R74, R94). -/
theorem coreMove_fatal {r : Run} {s t : State} (hl : r.legal) (hop : r.op ∉ [Instr.modexp, .lcm, .decrypt])
    (hm : CoreMove r.op r s t) : t.fatal = s.fatal := by
  cases hm with
  | finish u r' out hu => exact (complete_fatal ..).trans (endsFrom_fatal hu)
  | fault u code _ hi => exact absurd hi hop
  | keyFault p q _ hs _ _ hz =>
    exact absurd hz (lcmWord_ne_divZero_of_prime q ((isPrime_iff p).1 (hl.prime_p hs)))
  | cipherFault p q _ hs hz =>
    obtain ⟨hp, hq⟩ := hl.primes hs
    exact absurd hz (mul_ne_zero_of_primes ((isPrime_iff p).1 hp) ((isPrime_iff q).1 hq))
  | _ => rfl

/-- Settles O49: the run is legal, its command none of the three that fault, and the core not HALTED before the move. -/
theorem sixCommandsNeverFault : Obligations.SixCommandsNeverFault := by
  unfold Obligations.SixCommandsNeverFault
  intro s t r hinv hr hop h
  have hother : r.op ∉ [Instr.modexp, .lcm, .decrypt] := by
    revert hop
    cases r.op <;> decide
  exact (coreMove_fatal (hinv.legal hr) hother (exec_coreMove hr h)).trans (hinv.not_done_not_fatal hr).2

end Sys2Proof.Machine
end

section
/-! That the commands which draw nothing end, and what a reset leaves behind (file 70 of the spec: rules R106, R108,
R113). -/

namespace Sys2Proof.Machine

/-- A command that draws nothing has only moves that end it: it completes or faults (rules R84, R85, R113). -/
theorem coreMove_ends {i : Instr} {r : Run} {s t : State} (hi : drawsNumbers i = false) (hm : CoreMove i r s t) :
    t.busy = false ∧ t.running = none ∧ (t.doneFlag = true ∨ t.fatal = true) := by
  have hdraws : drawsNumbers i ≠ true := by simp [hi]
  have hkey : findsKey i ≠ true := fun hk => hdraws (drawsNumbers_of_findsKey hk)
  cases hm with
  | finish u r' out => exact ⟨rfl, rfl, .inl rfl⟩
  | fault u code => exact ⟨rfl, rfl, .inr rfl⟩
  | wait _ _ hw => exact absurd hw hdraws
  | begin hw => exact absurd hw hdraws
  | discard _ hw => exact absurd hw hdraws
  | gotP _ hk => exact absurd hk hkey
  | redraw _ _ _ _ hk => exact absurd hk hkey
  | keyFault _ _ hk => exact absurd hk hkey
  | announce _ _ _ _ he => exact absurd (findsKey_iff.2 (.inr he)) hkey
  | cipherFault _ _ he => exact absurd (findsKey_iff.2 (.inr he)) hkey

/-- Settles O48: `exec` always answers a next state, and of its moves only those that end the command are left. -/
theorem sixCommandsAlwaysEnd : Obligations.SixCommandsAlwaysEnd := by
  unfold Obligations.SixCommandsAlwaysEnd
  intro i s r hi hr
  obtain ⟨t, ht⟩ := exec_next i s
  exact ⟨t, ht, coreMove_ends hi (exec_coreMove hr ht)⟩

/-- Reset clears every field of `STATUS` (rules R26, R108). -/
theorem resetEdge_statusWord (s : State) : (resetEdge s).statusWord = 0#64 := by
  simp only [State.statusWord, resetEdge_fault, resetEdge_noinv, resetEdge_ovf, resetEdge_fatal, resetEdge_doneFlag,
    resetEdge_busy]
  decide

/-- A `reset` line is one clock edge with `rst = 1` and no transaction (rules R44, R106). -/
theorem runLine_reset (s : State) : runLine .reset s = .next (resetEdge s) := rfl

/-- Settles O35: the line is `resetEdge`, an edge with `rst = 1` is `resetEdge` whatever it presents, and `resetEdge`
leaves no run that could hold a draw. -/
theorem resetAbandonsTheCommand : Obligations.ResetAbandonsTheCommand := by
  unfold Obligations.ResetAbandonsTheCommand
  refine ⟨fun s rest ha hs => ?_, fun s t => ?_, fun s => ⟨?_, ?_, condition_idle rfl rfl rfl⟩⟩
  · rw [step_host ha hs, runLine_reset]
    rfl
  · rw [hostEdge_reset, hostEdge_reset]
  · simp only [State.rngPort, resetEdge_running]
  · rw [regRead_status, resetEdge_statusWord]

end Sys2Proof.Machine
end
